-- ==== Sys2Proof/Word.lean ====
section
/-! DEFINITION. The unsigned widths of the spec (00_scope.md rule R7) and a vector given by a function of its index. -/

namespace Sys2Proof

/-- `u8`. -/
abbrev Byte := BitVec 8

/-- `u32`: a host bus word, a cipher word, a command word. -/
abbrev Word := BitVec 32

/-- `u70`: a keystream position (10_state.md rule R30). -/
abbrev Pos := BitVec 70

/-- The vector whose element `k` is `f k`. -/
def tabulate {α : Type} (n : Nat) (f : Nat → α) : Vector α n :=
  ⟨((List.range n).map f).toArray, by simp⟩

end Sys2Proof
end

