-- ==== Sys2Proof/Config.lean ====
section
/-! DEFINITION. What is fixed for this hardware (00_scope.md rule R6), and the values the spec leaves open: each of
those is an opaque constant, so that no proof can see its value. -/

namespace Sys2Proof.Config

/-- `DBUF_BYTES` (rule R6, D4): 256 for this hardware. The model uses only `64 ≤ dbufBytes ≤ 2048` and `4 ∣ dbufBytes`
of it, and that a u16 holds it (Laws/Config.lean), so it holds for every size rule R6 allows. -/
def dbufBytes : Nat := 256

/-- `WINDOW_BYTES` (rules R6, R60). -/
def windowBytes : Nat := 4096

/-- `ROUNDS` = 20 as 10 double-rounds (rule R6). -/
def doubleRounds : Nat := 10

/-- The first position beyond ChaCha20's 32-bit block counter: 2^32 blocks of 64 bytes (42_chacha20.md rule R179). -/
def chachaLimit : Nat := 2 ^ 38

/-- `CORE_BASE` (rule R6, D13): OPEN, the platform places the window. Log entry 4. -/
opaque coreBase : Nat

/-- `LATENCY` (70_reset_and_hazards.md rule R272, U13): OPEN. `latency k` is how many host accesses reach the CORE
between the acceptance of the `k`-th command and its step, if that many are waiting. Log entry 5. -/
opaque latency : Nat → Nat

/-- The value of the `k`-th unspecified read during BUSY (20_memory.md rule R74, U2). Log entry 6. -/
opaque busyRead : Nat → Word

/-- The draw of KEY, NONCE and DBUF (10_state.md rules R44 and R45, U3): `resetByte e off` is what the byte at window
offset `off` holds after the `e`-th reset until it is written. Log entry 1. -/
opaque resetByte : Nat → Nat → Byte

/-- The draw of `S[k]` after the `e`-th reset (10_state.md rule R44, U4). Log entry 2. -/
opaque resetPerm : Nat → Nat → Byte

/-- The draw of `rc4_i` after the `e`-th reset (10_state.md rule R44, U4). Log entry 2. -/
opaque resetI : Nat → Byte

/-- The draw of `rc4_j` after the `e`-th reset (10_state.md rule R44, U4). Log entry 2. -/
opaque resetJ : Nat → Byte

end Sys2Proof.Config
end

