-- ==== Sys2Proof/Syntax.lean ====
section
/-! DEFINITION. The command set (30_encoding.md rule R91) and the fields of a command word (rule R90). -/

namespace Sys2Proof

/-- The commands of the CORE, one constructor per row of spec/opcode_table.json. `ks` is the keystream-only bit, which
only the stream commands have (30_encoding.md rule R92). -/
inductive Instr where
  | rc4Ksa
  | rc4Prga (ks : Bool)
  | salsa20Stream (ks : Bool)
  | hsalsa20
  | salsa20Block
  | chacha20Stream (ks : Bool)
  | hchacha20
  | chacha20Block
deriving DecidableEq, Repr

/-- The three fields of a command word (30_encoding.md rule R90). -/
structure CmdFields where
  op : BitVec 8
  ks : Bool
  rsv : BitVec 23
deriving DecidableEq, Repr

/-- Why a command word is ILLEGAL: the three classes of 30_encoding.md rule R94. -/
inductive Illegal where
  /-- RSV is not 0. -/
  | rsvSet
  /-- OP is none of the eight opcodes. -/
  | opUnassigned
  /-- KS = 1 with an opcode that is no stream command. -/
  | ksNotAllowed
deriving DecidableEq, Repr

end Sys2Proof
end

