-- ==== Sys2Proof/WellFormed.lean ====
section
/-! DEFINITION. When the fields of a command word are legal (30_encoding.md rule R94). A term of `Instr` is legal by
its construction (KS stands only in the stream commands), so the checks are about the fields. -/

namespace Sys2Proof.CmdFields

/-- The opcodes of rule R91 whose row allows KS. -/
def streamOps : List (BitVec 8) := [0x02, 0x10, 0x20]

/-- The opcodes of rule R91 whose row does not allow KS. -/
def plainOps : List (BitVec 8) := [0x01, 0x11, 0x12, 0x21, 0x22]

/-- RSV is 0. -/
def rsvClear (f : CmdFields) : Bool := f.rsv == 0

/-- OP is one of the eight opcodes. -/
def opAssigned (f : CmdFields) : Bool := streamOps.contains f.op || plainOps.contains f.op

/-- KS is 0, or the opcode is a stream command. -/
def ksAllowed (f : CmdFields) : Bool := !f.ks || streamOps.contains f.op

/-- The fields are those of a legal command word. -/
def wellFormed (f : CmdFields) : Bool := f.rsvClear && f.opAssigned && f.ksAllowed

end Sys2Proof.CmdFields
end

