-- ==== Sys2Proof/Decode.lean ====
section
/-! DEFINITION. The decoder (30_encoding.md rule R93), total on every 32-bit word, and the encoder (rules R90, R91). -/

namespace Sys2Proof

/-- The fields of a command word (rule R90): OP[7:0], KS[8], RSV[31:9]. -/
def fieldsOf (w : Word) : CmdFields where
  op := w.extractLsb' 0 8
  ks := w.getLsbD 8
  rsv := w.extractLsb' 9 23

/-- A command that has no KS bit: KS = 1 makes the word illegal. -/
def decodePlain (ks : Bool) (i : Instr) : Except Illegal Instr :=
  if ks then .error .ksNotAllowed else .ok i

/-- Rule R93: `ILLEGAL` is an error that names its class in rule R94. -/
def decode (w : Word) : Except Illegal Instr :=
  let f := fieldsOf w
  if f.rsv ≠ 0 then .error .rsvSet
  else if f.op = 0x01 then decodePlain f.ks .rc4Ksa
  else if f.op = 0x02 then .ok (.rc4Prga f.ks)
  else if f.op = 0x10 then .ok (.salsa20Stream f.ks)
  else if f.op = 0x11 then decodePlain f.ks .hsalsa20
  else if f.op = 0x12 then decodePlain f.ks .salsa20Block
  else if f.op = 0x20 then .ok (.chacha20Stream f.ks)
  else if f.op = 0x21 then decodePlain f.ks .hchacha20
  else if f.op = 0x22 then decodePlain f.ks .chacha20Block
  else .error .opUnassigned

/-- The word of given fields, RSV in the most significant place (rule R90). -/
def wordOf (f : CmdFields) : Word := f.rsv ++ BitVec.ofBool f.ks ++ f.op

/-- The fields of a command (rule R91), RSV = 0. -/
def Instr.fields : Instr → CmdFields
  | .rc4Ksa => ⟨0x01, false, 0⟩
  | .rc4Prga ks => ⟨0x02, ks, 0⟩
  | .salsa20Stream ks => ⟨0x10, ks, 0⟩
  | .hsalsa20 => ⟨0x11, false, 0⟩
  | .salsa20Block => ⟨0x12, false, 0⟩
  | .chacha20Stream ks => ⟨0x20, ks, 0⟩
  | .hchacha20 => ⟨0x21, false, 0⟩
  | .chacha20Block => ⟨0x22, false, 0⟩

/-- The command word of a command: `cmdword` of rule R101, `+ 0x100` with `.ks`. -/
def encode (i : Instr) : Word := wordOf i.fields

/-- The table's numbering: bit 0 is the least significant bit of the one word a command has; bits from `nbits` on
are 0. -/
def tableWord (nbits w : Nat) : Word := BitVec.ofNat 32 (w % 2 ^ nbits)

/-- The command the decoder reads from an instruction whose bits are `w`. -/
def decodeTableWord (nbits w : Nat) : Option Instr := (decode (tableWord nbits w)).toOption

end Sys2Proof
end

