-- ==== Sys2Proof/Machine/State.lean ====
section
/-! DEFINITION. The state of the CORE (spec/10_state.md) and of its environment, as plain data, and its value after
reset. -/

namespace Sys2Proof.Machine

/-- The fields of STATUS (10_state.md rule R21). The reserved bits hold no state: they read 0 (20_memory.md R63). -/
structure Status where
  busy : Bool
  done : Bool
  err : Bool
  rc4v : Bool
  wdrop : Bool
  errcode : BitVec 4
deriving DecidableEq, Repr

/-- The RC4 state: the permutation and its two indices (10_state.md rule R36). -/
structure Rc4 where
  S : Vector Byte 256
  i : Byte
  j : Byte
deriving DecidableEq, Repr

/-- What the outside world does to the CORE. `off` is a byte offset in the window, `bytes` the width of the access. -/
inductive HostEvent where
  /-- `MemRead(off, bytes)` (00_scope.md rule R10). -/
  | read (off bytes : Nat)
  /-- `MemWrite(off, bytes, v)` (00_scope.md rule R10). -/
  | write (off bytes : Nat) (v : Word)
  /-- The host's `wait` loop: read STATUS until BUSY = 0 (30_encoding.md rule R100). -/
  | poll
  /-- The platform's reset (70_reset_and_hazards.md rule R260). -/
  | reset
deriving DecidableEq, Repr

/-- A value the bus has returned to the host. -/
structure BusRead where
  off : Nat
  value : Word
deriving DecidableEq, Repr

/-- Everything the spec gives the CORE (`latchedCmd` to `rc4`), and below it the model's own fields, which put the
host beside it (INVENTORY.md, State). -/
structure State where
  /-- `latched_cmd` (10_state.md rule R40). -/
  latchedCmd : Word
  /-- `STATUS` (rules R21 to R26). -/
  status : Status
  /-- `KEYLEN.N` (rule R27). -/
  keyLen : BitVec 9
  /-- `NONCELEN.N` (rule R28). -/
  nonceLen : BitVec 5
  /-- `LEN.N` (rule R29). -/
  len : BitVec 16
  /-- `POS` = POS2[5:0] ++ POS1 ++ POS0 (rule R30). -/
  pos : Pos
  /-- `KEY[0..255]` (rule R33). -/
  key : Vector Byte 256
  /-- `NONCE[0..23]` (rule R34). -/
  nonce : Vector Byte 24
  /-- `DBUF[0..DBUF_BYTES-1]` (rule R35). -/
  dbuf : Vector Byte Config.dbufBytes
  /-- `S`, `rc4_i`, `rc4_j` (rule R36). -/
  rc4 : Rc4
  /-- The host's accesses that have not reached the CORE yet, the next first (20_memory.md rule R70). -/
  hostQueue : List HostEvent
  /-- The values returned to the host, the newest first. -/
  readLog : List BusRead
  /-- How many more host accesses reach the CORE before the accepted command's step (LATENCY, rule R272). -/
  busyLeft : Nat
  /-- How many commands have been accepted: the next argument of `Config.latency`. -/
  accepted : Nat
  /-- How many unspecified reads have happened: the next argument of `Config.busyRead`. -/
  draws : Nat
  /-- How many resets have happened since `State.reset`: the draw of the buffers. -/
  resets : Nat
deriving DecidableEq, Repr

/-- Nothing faults: a command error is reported in STATUS and the machine goes on (60_exceptions.md rules R220, R231),
and the CORE accesses only its own storage (20_memory.md rule R80). So there is no reason to list. -/
inductive Fault where
deriving DecidableEq, Repr

/-- What the model gives no step. -/
inductive Refusal where
  /-- Raised by `exec` for a command that has no meaning in the model: no command is left so. Safe. -/
  | notModelled (mnemonic : String)
  /-- Raised by `step` for a host access that is not 32 bits wide (20_memory.md rule R67, U6: "A model must give such
  an access no step (refusal), never a value"). Safe. -/
  | accessWidth (off bytes : Nat)
  /-- Raised by `step` for a host access at an offset with `off[1:0] != 0` (20_memory.md rule R67, U6). Safe. -/
  | accessMisaligned (off : Nat)
  /-- Raised by `step` for a host access outside the 4 KiB window (20_memory.md rule R60, U7). Safe. -/
  | accessOutsideWindow (off : Nat)
deriving DecidableEq, Repr

/-- KEY, NONCE and DBUF stand at these window offsets (20_memory.md rule R61). -/
def keyBase : Nat := 0x100
@[inherit_doc keyBase] def nonceBase : Nat := 0x200
@[inherit_doc keyBase] def dbufBase : Nat := 0x800

/-- KEY after the `e`-th reset: unspecified (10_state.md rule R44). -/
def keyAtReset (e : Nat) : Vector Byte 256 := tabulate 256 fun k => Config.resetByte e (keyBase + k)

/-- NONCE after the `e`-th reset: unspecified (10_state.md rule R44). -/
def nonceAtReset (e : Nat) : Vector Byte 24 := tabulate 24 fun k => Config.resetByte e (nonceBase + k)

/-- DBUF after the `e`-th reset: unspecified (10_state.md rule R44). -/
def dbufAtReset (e : Nat) : Vector Byte Config.dbufBytes :=
  tabulate Config.dbufBytes fun k => Config.resetByte e (dbufBase + k)

/-- The RC4 state after the `e`-th reset: unspecified (10_state.md rule R44). -/
def rc4AtReset (e : Nat) : Rc4 where
  S := tabulate 256 (Config.resetPerm e)
  i := Config.resetI e
  j := Config.resetJ e

/-- STATUS = 0x00000000 (10_state.md rule R43). -/
def Status.clear : Status where
  busy := false
  done := false
  err := false
  rc4v := false
  wdrop := false
  errcode := 0

/-- The machine right after reset (10_state.md rules R43 to R45): every host register 0, the buffers and the RC4 state
unspecified; no host access waiting. -/
def State.reset : State where
  latchedCmd := 0
  status := Status.clear
  keyLen := 0
  nonceLen := 0
  len := 0
  pos := 0
  key := keyAtReset 0
  nonce := nonceAtReset 0
  dbuf := dbufAtReset 0
  rc4 := rc4AtReset 0
  hostQueue := []
  readLog := []
  busyLeft := 0
  accepted := 0
  draws := 0
  resets := 0

end Sys2Proof.Machine
end

