-- ==== Sys2Proof/Machine/Operands.lean ====
section
/-! DEFINITION. Bytes and words (00_scope.md rules R8, R9), the position decoder and the XOR merge unit
(43_pos_xor.md), the buffers' lanes (20_memory.md rule R64), and how a command's operands are assembled
(30_encoding.md rules R95, R96). -/

namespace Sys2Proof.Machine

/-! ## Words and bytes -/

/-- `rotl32(v, n)` for 1 <= n <= 31 (rule R8). -/
def rotl32 (v : Word) (n : Nat) : Word := (v <<< n) ||| (v >>> (32 - n))

/-- `le32(b0, b1, b2, b3)`, `b0` the least significant byte (rule R9). -/
def le32 (b0 b1 b2 b3 : Byte) : Word := b3 ++ b2 ++ b1 ++ b0

/-- `bytes_le(w)` (rule R9). -/
def bytesLe (w : Word) : List Byte :=
  [w.extractLsb' 0 8, w.extractLsb' 8 8, w.extractLsb' 16 8, w.extractLsb' 24 8]

/-- Word `k` of `words_le(B, n)` (rule R9). -/
def leWord (B : List Byte) (k : Nat) : Word :=
  le32 (B.getD (4 * k) 0) (B.getD (4 * k + 1) 0) (B.getD (4 * k + 2) 0) (B.getD (4 * k + 3) 0)

/-- `words_le(B, n)` (rule R9). -/
def wordsLe (B : List Byte) (n : Nat) : List Word := (List.range n).map (leWord B)

/-- `ser(W)`: the words' bytes, `W[0]` first (rule R9). -/
def ser (W : List Word) : List Byte := W.flatMap bytesLe

/-- The 16-word state of a block function (rule R10). -/
abbrev Block := Vector Word 16

/-- The block `words_le(B, 16)`. -/
def blockOfBytes (B : List Byte) : Block := tabulate 16 (leWord B)

/-- The feedforward: `x[k] +32 s[k]` for k in 0..15, serialised (41_salsa20.md R146, 42_chacha20.md R174). -/
def feedforward (x s : Block) : List Byte := ser (List.zipWith (· + ·) x.toList s.toList)

/-- The constant words, "expand 32-byte k" (41_salsa20.md rule R140). -/
def c0 : Word := 0x61707865
@[inherit_doc c0] def c1 : Word := 0x3320646e
@[inherit_doc c0] def c2 : Word := 0x79622d32
@[inherit_doc c0] def c3 : Word := 0x6b206574

/-! ## The position decoder and the XOR merge unit -/

/-- `blockIndex(q) = q[69:6]` (43_pos_xor.md rule R200). -/
def blockIndex (q : Pos) : BitVec 64 := q.extractLsb' 6 64

/-- `intraOffset(q) = q[5:0]` (43_pos_xor.md rule R200). -/
def intraOffset (q : Pos) : BitVec 6 := q.extractLsb' 0 6

/-- `merge(d, k, KS)` (43_pos_xor.md rule R204). -/
def merge (d k : Byte) (ks : Bool) : Byte := if ks then k else d ^^^ k

/-- Merge data with keystream byte by byte; the result is as long as the shorter (43_pos_xor.md rule R205). -/
def mergeBytes (ks : Bool) (data keystream : List Byte) : List Byte :=
  List.zipWith (fun d k => merge d k ks) data keystream

/-! ## The three position registers -/

/-- `POS[31:0]` (10_state.md rule R30). -/
def posLow (p : Pos) : Word := p.extractLsb' 0 32

/-- `POS[63:32]` (10_state.md rule R30). -/
def posMid (p : Pos) : Word := p.extractLsb' 32 32

/-- `POS[69:64]` in bits 5:0, the reserved bits 0 (10_state.md rule R30, 20_memory.md rule R63). -/
def posHigh (p : Pos) : Word := (p.extractLsb' 64 6).setWidth 32

/-- POS0 written: the other two registers keep their value (10_state.md rule R30). -/
def setPosLow (v : Word) (p : Pos) : Pos := p.extractLsb' 32 38 ++ v

/-- POS1 written. -/
def setPosMid (v : Word) (p : Pos) : Pos := p.extractLsb' 64 6 ++ v ++ p.extractLsb' 0 32

/-- POS2 written: only bits 5:0 of the value are kept (20_memory.md rule R63). -/
def setPosHigh (v : Word) (p : Pos) : Pos := v.extractLsb' 0 6 ++ p.extractLsb' 0 64

/-! ## The byte buffers -/

/-- The bus word whose first byte is `X[k]` (20_memory.md rule R64). -/
def bufferWord {n : Nat} (X : Vector Byte n) (k : Nat) : Word :=
  le32 (X[k]?.getD 0) (X[k + 1]?.getD 0) (X[k + 2]?.getD 0) (X[k + 3]?.getD 0)

/-- The buffer after a bus write of `v` to the word whose first byte is `X[k]` (20_memory.md rule R64). -/
def setBufferWord {n : Nat} (X : Vector Byte n) (k : Nat) (v : Word) : Vector Byte n :=
  (((X.setIfInBounds k (v.extractLsb' 0 8)).setIfInBounds (k + 1) (v.extractLsb' 8 8)).setIfInBounds (k + 2)
    (v.extractLsb' 16 8)).setIfInBounds (k + 3) (v.extractLsb' 24 8)

/-- `X[0..m-1] <- bs` for `m = bs.length`; the bytes from `m` on are unchanged (10_state.md rule R35). -/
def storeBytes {n : Nat} (X : Vector Byte n) (bs : List Byte) : Vector Byte n :=
  ⟨((bs ++ X.toList.drop bs.length).take n).toArray, by simp; omega⟩

/-! ## Operands of the commands -/

/-- `KEY[0..31]`, the key of the Salsa20 and ChaCha20 commands (10_state.md rule R33). -/
def cipherKey (s : State) : List Byte := s.key.toList.take 32

/-- `KEY[0..KEYLEN.N-1]`, the key of RC4_KSA (10_state.md rule R33). -/
def rc4Key (s : State) : List Byte := s.key.toList.take s.keyLen.toNat

/-- `NONCE[0..NONCELEN.N-1]` (10_state.md rule R34). -/
def nonceOperand (s : State) : List Byte := s.nonce.toList.take s.nonceLen.toNat

/-- `NONCE[0..15]`, the nonce of the H-commands (10_state.md rule R34). -/
def nonce16 (s : State) : List Byte := s.nonce.toList.take 16

/-- The state a raw block command reads: `words_le(DBUF[0..63], 16)` (30_encoding.md rule R95). -/
def blockOperand (s : State) : Block := blockOfBytes (s.dbuf.toList.take 64)

end Sys2Proof.Machine
end

