-- ==== Sys2Proof/Machine/Flags.lean ====
section
/-! DEFINITION. STATUS: its word (10_state.md rule R21), the error codes (60_exceptions.md rule R221), what acceptance,
rejection and completion make of it, and the checks of 60_exceptions.md rule R228. The CORE has no arithmetic flag
(10_state.md rule R41). -/

namespace Sys2Proof.Machine

/-- The command errors (60_exceptions.md rule R221). -/
inductive CmdError where
  | illegal
  | keyLen
  | nonceLen
  | len
  | noState
  | ctrRange
deriving DecidableEq, Repr

/-- The code recorded in STATUS.ERRCODE (60_exceptions.md rule R221). -/
def CmdError.code : CmdError → BitVec 4
  | .illegal => 1
  | .keyLen => 2
  | .nonceLen => 3
  | .len => 4
  | .noState => 5
  | .ctrRange => 6

/-- STATUS as the bus reads it (10_state.md rule R21): ERRCODE in bits 11:8, then WDROP, RC4V, ERR, DONE, BUSY from
bit 4 down to bit 0; every reserved bit 0. -/
def Status.word (t : Status) : Word :=
  (0 : BitVec 20) ++ t.errcode ++ (0 : BitVec 3) ++ BitVec.ofBool t.wdrop ++ BitVec.ofBool t.rc4v ++
    BitVec.ofBool t.err ++ BitVec.ofBool t.done ++ BitVec.ofBool t.busy

/-- A command is accepted (10_state.md rule R20). -/
def Status.accept (t : Status) : Status :=
  { t with busy := true, done := false, err := false, errcode := 0, wdrop := false }

/-- A command is rejected (60_exceptions.md rule R229). -/
def Status.reject (e : CmdError) (t : Status) : Status :=
  { t with busy := false, done := false, err := true, errcode := e.code }

/-- A command is completed (60_exceptions.md rule R230). -/
def Status.complete (t : Status) : Status :=
  { t with busy := false, done := true, err := false, errcode := 0 }

/-- A write arrived while BUSY = 1 (10_state.md rule R26). -/
def Status.dropWrite (t : Status) : Status := { t with wdrop := true }

/-- A key schedule has completed (10_state.md rule R25). -/
def Status.schedule (t : Status) : Status := { t with rc4v := true }

/-! ## The checks of the commands (60_exceptions.md rule R228)

Each answers the error it raises, or none. ILLEGAL is the decoder's. -/

/-- KEYLEN for RC4_KSA: 1 <= KEYLEN.N <= 256 (rule R223). -/
def checkRc4Key (s : State) : Option CmdError :=
  if 1 ≤ s.keyLen.toNat ∧ s.keyLen.toNat ≤ 256 then none else some .keyLen

/-- KEYLEN for the Salsa20 and ChaCha20 key-using commands: KEYLEN.N = 32 (rule R223). -/
def checkCipherKey (s : State) : Option CmdError :=
  if s.keyLen.toNat = 32 then none else some .keyLen

/-- NONCELEN: NONCELEN.N is one of the command's lengths (rule R224). -/
def checkNonce (lengths : List Nat) (s : State) : Option CmdError :=
  if s.nonceLen.toNat ∈ lengths then none else some .nonceLen

/-- LEN: LEN.N <= DBUF_BYTES (rule R225). -/
def checkLen (s : State) : Option CmdError :=
  if s.len.toNat ≤ Config.dbufBytes then none else some .len

/-- NOSTATE: RC4V = 1 (rule R226). -/
def checkRc4State (s : State) : Option CmdError :=
  if s.status.rc4v then none else some .noState

/-- CTRRANGE: LEN.N = 0, or the last position of the range is below 2^38, as an unbounded sum (rule R227). -/
def checkRange (s : State) : Option CmdError :=
  if 0 < s.len.toNat ∧ Config.chachaLimit ≤ s.pos.toNat + s.len.toNat - 1 then some .ctrRange else none

/-- The first check that fails, in the order they are listed (rule R228). -/
def firstError : List (Option CmdError) → Option CmdError
  | [] => none
  | some e :: _ => some e
  | none :: rest => firstError rest

end Sys2Proof.Machine
end

