-- ==== Sys2Proof/Machine/Ops.lean ====
section
/-! DEFINITION. The shared operations: accepting, rejecting and completing a command, writing DBUF, the host's bus
accesses, reset, and which agent moves next. -/

namespace Sys2Proof.Machine

/-! ## Commands -/

/-- A command is accepted (10_state.md rule R20): the word is latched and STATUS is set. How long it stays BUSY is a
free value (70_reset_and_hazards.md rule R272). -/
def acceptCommand (v : Word) (s : State) : State :=
  { s with
    latchedCmd := v
    status := s.status.accept
    busyLeft := Config.latency s.accepted
    accepted := s.accepted + 1 }

/-- `raise CmdError(e)`: the CORE's one way of taking an exception (60_exceptions.md rules R220, R229, R231). Only
STATUS changes; nothing is saved and control goes nowhere. There is no return from it: ERR stays until the next accepted
command or reset (rule R232). -/
def raiseCmdError (e : CmdError) (s : State) : State := { s with status := s.status.reject e }

/-- The end of a completed command (60_exceptions.md rule R230). -/
def completeCommand (s : State) : State := { s with status := s.status.complete }

/-- A command's atomic step (00_scope.md rule R12): its checks, then the rejection for the first that fails, or the
effect and the completion (60_exceptions.md rules R228 to R230). -/
def runCommand (checks : List (Option CmdError)) (effect : State → State) (s : State) :
    Host.Outcome State Fault Refusal :=
  match firstError checks with
  | some e => .next (raiseCmdError e s)
  | none => .next (completeCommand (effect s))

/-- `DBUF[0..m-1] <- bs` (10_state.md rule R35). -/
def storeDbuf (bs : List Byte) (s : State) : State := { s with dbuf := storeBytes s.dbuf bs }

/-- A stream command's keystream goes through the XOR merge unit into DBUF, in place (43_pos_xor.md rule R205). -/
def mergeDbuf (ks : Bool) (keystream : List Byte) (s : State) : State :=
  storeDbuf (mergeBytes ks s.dbuf.toList keystream) s

/-- POS moves on by LEN at the end of a completed Salsa20 or ChaCha20 stream command (43_pos_xor.md rule R203). -/
def advancePos (s : State) : State := { s with pos := s.pos + BitVec.ofNat 70 s.len.toNat }

/-- The positions of a stream command's bytes: (POS + t) mod 2^70 for t in 0..LEN.N-1 (43_pos_xor.md rule R202). -/
def streamPositions (s : State) : List Pos :=
  (List.range s.len.toNat).map fun t => s.pos + BitVec.ofNat 70 t

/-! ## The window (20_memory.md rule R61) -/

/-- What stands at a window offset; `k` is the index of the byte in its buffer. -/
inductive Loc where
  | cmd
  | status
  | keyLen
  | nonceLen
  | len
  | pos0
  | pos1
  | pos2
  | blk0
  | blk1
  | offs
  | key (k : Nat)
  | nonce (k : Nat)
  | dbuf (k : Nat)
  | reserved
deriving DecidableEq, Repr

/-- The window's map (20_memory.md rule R61). -/
def locate (off : Nat) : Loc :=
  if off = 0x000 then .cmd
  else if off = 0x004 then .status
  else if off = 0x008 then .keyLen
  else if off = 0x00C then .nonceLen
  else if off = 0x010 then .len
  else if off = 0x014 then .pos0
  else if off = 0x018 then .pos1
  else if off = 0x01C then .pos2
  else if off = 0x020 then .blk0
  else if off = 0x024 then .blk1
  else if off = 0x028 then .offs
  else if keyBase ≤ off ∧ off < keyBase + 256 then .key (off - keyBase)
  else if nonceBase ≤ off ∧ off < nonceBase + 24 then .nonce (off - nonceBase)
  else if dbufBase ≤ off ∧ off < dbufBase + Config.dbufBytes then .dbuf (off - dbufBase)
  else .reserved

/-- A window offset as the platform's bus address (00_scope.md rule R6, `CORE_BASE`). -/
def busAddress (off : Nat) : Nat := Config.coreBase + off

/-- The window offset a platform address falls on; none outside the window (20_memory.md rule R60, U7). -/
def windowOffset (addr : Nat) : Option Nat :=
  if Config.coreBase ≤ addr ∧ addr < Config.coreBase + Config.windowBytes then some (addr - Config.coreBase) else none

/-- Why an access is outside the contract, if it is (20_memory.md rules R60, R67). -/
def accessProblem (off bytes : Nat) : Option Refusal :=
  if bytes ≠ 4 then some (.accessWidth off bytes)
  else if off % 4 ≠ 0 then some (.accessMisaligned off)
  else if Config.windowBytes ≤ off then some (.accessOutsideWindow off)
  else none

/-- What the bus reads at a place while BUSY = 0 (10_state.md rules R20 to R34, 20_memory.md rules R62 to R64). -/
def locValue (s : State) : Loc → Word
  | .cmd => 0
  | .status => s.status.word
  | .keyLen => s.keyLen.setWidth 32
  | .nonceLen => s.nonceLen.setWidth 32
  | .len => s.len.setWidth 32
  | .pos0 => posLow s.pos
  | .pos1 => posMid s.pos
  | .pos2 => posHigh s.pos
  | .blk0 => (blockIndex s.pos).extractLsb' 0 32
  | .blk1 => (blockIndex s.pos).extractLsb' 32 32
  | .offs => (intraOffset s.pos).setWidth 32
  | .key k => bufferWord s.key k
  | .nonce k => bufferWord s.nonce k
  | .dbuf k => bufferWord s.dbuf k
  | .reserved => 0

/-- The places whose value is unspecified while BUSY = 1 (20_memory.md rule R74). -/
def Loc.isVolatile : Loc → Bool
  | .pos0 | .pos1 | .pos2 | .blk0 | .blk1 | .offs | .dbuf _ => true
  | .cmd | .status | .keyLen | .nonceLen | .len | .key _ | .nonce _ | .reserved => false

/-- A read's value and the free values it uses up: unspecified at a volatile place while BUSY = 1, a fresh one each
time (20_memory.md rule R74); the place's value else. -/
def readValue (s : State) (l : Loc) : Word × Nat :=
  if s.status.busy && l.isVolatile then (Config.busyRead s.draws, s.draws + 1) else (locValue s l, s.draws)

/-- `MemRead(off, 4)`: the value goes to the host; nothing of the CORE changes (20_memory.md rule R68). -/
def busRead (off : Nat) (s : State) : State :=
  { s with
    readLog := ⟨off, (readValue s (locate off)).1⟩ :: s.readLog
    draws := (readValue s (locate off)).2 }

/-- A write of `v` to a place while BUSY = 0 (10_state.md rules R20 to R35, 20_memory.md rules R62 to R64). -/
def writeLoc (v : Word) (s : State) : Loc → State
  | .cmd => acceptCommand v s
  | .keyLen => { s with keyLen := v.extractLsb' 0 9 }
  | .nonceLen => { s with nonceLen := v.extractLsb' 0 5 }
  | .len => { s with len := v.extractLsb' 0 16 }
  | .pos0 => { s with pos := setPosLow v s.pos }
  | .pos1 => { s with pos := setPosMid v s.pos }
  | .pos2 => { s with pos := setPosHigh v s.pos }
  | .key k => { s with key := setBufferWord s.key k v }
  | .nonce k => { s with nonce := setBufferWord s.nonce k v }
  | .dbuf k => { s with dbuf := setBufferWord s.dbuf k v }
  | .status => s
  | .blk0 => s
  | .blk1 => s
  | .offs => s
  | .reserved => s

/-- `MemWrite(off, 4, v)`: while BUSY = 1 it is dropped and sets WDROP, at every offset (20_memory.md rule R73). -/
def busWrite (off : Nat) (v : Word) (s : State) : State :=
  if s.status.busy then { s with status := s.status.dropWrite } else writeLoc v s (locate off)

/-- The byte of KEY, NONCE or DBUF at a window offset; none where no buffer byte stands (20_memory.md rule R61). -/
def bufferByte (s : State) (off : Nat) : Option Byte :=
  match locate off with
  | .key k => s.key[k]?
  | .nonce k => s.nonce[k]?
  | .dbuf k => s.dbuf[k]?
  | .cmd | .status | .keyLen | .nonceLen | .len | .pos0 | .pos1 | .pos2 | .blk0 | .blk1 | .offs | .reserved => none

/-! ## Reset (70_reset_and_hazards.md rule R260) -/

/-- Reset: every host register at its reset value, the buffers and the RC4 state a new draw, a command in progress
abandoned. The host's accesses and what it has read are outside the CORE and stay. -/
def resetCore (s : State) : State :=
  { State.reset with
    key := keyAtReset (s.resets + 1)
    nonce := nonceAtReset (s.resets + 1)
    dbuf := dbufAtReset (s.resets + 1)
    rc4 := rc4AtReset (s.resets + 1)
    hostQueue := s.hostQueue
    readLog := s.readLog
    accepted := s.accepted
    draws := s.draws
    resets := s.resets + 1 }

/-! ## Which agent moves next (00_scope.md rule R12, 60_exceptions.md rule R235) -/

/-- The agent whose action is the next step. -/
inductive Turn where
  /-- Nothing to do: BUSY = 0 and the host is silent (70_reset_and_hazards.md rule R261). -/
  | idle
  /-- The CORE sequencer performs the latched command. -/
  | command
  /-- A host access, the end of a `wait`, or the platform's reset; and the events after it. -/
  | host (e : HostEvent) (rest : List HostEvent)
deriving DecidableEq, Repr

/-- Reset goes before all. While BUSY = 1 the command's step comes once `busyLeft` host accesses have passed, or when the
host has none waiting, or when it only polls. -/
def nextTurn (s : State) : Turn :=
  match s.hostQueue with
  | [] => if s.status.busy then .command else .idle
  | .reset :: rest => .host .reset rest
  | .poll :: rest => if s.status.busy then .command else .host .poll rest
  | .read off bytes :: rest =>
    if s.status.busy && s.busyLeft == 0 then .command else .host (.read off bytes) rest
  | .write off bytes v :: rest =>
    if s.status.busy && s.busyLeft == 0 then .command else .host (.write off bytes v) rest

/-- Why an event of the outside world has no step, if it has none. -/
def HostEvent.problem : HostEvent → Option Refusal
  | .read off bytes => accessProblem off bytes
  | .write off bytes _ => accessProblem off bytes
  | .poll => none
  | .reset => none

/-- The effect of an event of the outside world that is inside the contract. The read that ends a `wait` is a STATUS read. -/
def applyEvent (s : State) : HostEvent → State
  | .read off _ => busRead off s
  | .write off _ v => busWrite off v s
  | .poll => busRead 0x004 s
  | .reset => resetCore s

/-- The event leaves the queue; while BUSY = 1 it is one of the accesses the command waits for (while BUSY = 0 the count
has no meaning: acceptance sets it). -/
def takeEvent (rest : List HostEvent) (s : State) : State :=
  { s with hostQueue := rest, busyLeft := s.busyLeft - 1 }

/-- One host event (20_memory.md rules R67, R68). -/
def hostStep (e : HostEvent) (rest : List HostEvent) (s : State) : Host.Outcome State Fault Refusal :=
  match e.problem with
  | some r => .refused r
  | none => .next (applyEvent (takeEvent rest s) e)

/-- The outside world adds accesses for the CORE to see after those already waiting (20_memory.md rule R70). -/
def issue (events : List HostEvent) (s : State) : State := { s with hostQueue := s.hostQueue ++ events }

end Sys2Proof.Machine
end

