-- ==== Sys2Proof/Machine/ChaCha20.lean ====
section
/-! DEFINITION. The ChaCha20 unit (spec/42_chacha20.md): the round transform, the block function, HChaCha20, XChaCha20,
and the commands CHACHA20_STREAM, HCHACHA20 and CHACHA20_BLOCK. -/

namespace Sys2Proof.Machine

/-- `chacha_state(K, N, ctr)` (rule R170). -/
def chachaState (K N : List Byte) (ctr : Word) : Block :=
  #v[c0, c1, c2, c3,
     leWord K 0, leWord K 1, leWord K 2, leWord K 3,
     leWord K 4, leWord K 5, leWord K 6, leWord K 7,
     ctr, leWord N 0, leWord N 1, leWord N 2]

/-- One line of the quarter-round: `x[a] <- x[a] +32 x[b]; x[d] <- x[d] xor x[a]; x[d] <- rotl32(x[d], n)`. -/
def chachaLine (a b d : Fin 16) (n : Nat) (x : Block) : Block :=
  let x := x.set a (x[a] + x[b])
  let x := x.set d (x[d] ^^^ x[a])
  x.set d (rotl32 x[d] n)

/-- `QR_chacha(a, b, c, d)`, in place (rule R171). -/
def qrChacha (a b c d : Fin 16) (x : Block) : Block :=
  let x := chachaLine a b d 16 x
  let x := chachaLine c d b 12 x
  let x := chachaLine a b d 8 x
  chachaLine c d b 7 x

/-- The column round (rule R172). -/
def chachaColumnRound (x : Block) : Block :=
  let x := qrChacha 0 4 8 12 x
  let x := qrChacha 1 5 9 13 x
  let x := qrChacha 2 6 10 14 x
  qrChacha 3 7 11 15 x

/-- The diagonal round (rule R172). -/
def chachaDiagonalRound (x : Block) : Block :=
  let x := qrChacha 0 5 10 15 x
  let x := qrChacha 1 6 11 12 x
  let x := qrChacha 2 7 8 13 x
  qrChacha 3 4 9 14 x

/-- One double-round: a column round, then a diagonal round (rule R173). -/
def chachaDoubleRound (x : Block) : Block := chachaDiagonalRound (chachaColumnRound x)

/-- `chacha_rounds(s)` (rule R173). -/
def chachaRounds (s : Block) : Block := Nat.iterate chachaDoubleRound Config.doubleRounds s

/-- `chacha_block(s)` (rule R174). -/
def chachaBlock (s : Block) : List Byte := feedforward (chachaRounds s) s

/-- `hchacha_state(K, N16)` (rule R175): `words_le(N16, 4)` in words 12 to 15. -/
def hchachaState (K N16 : List Byte) : Block := chachaState K (N16.drop 4) (leWord N16 0)

/-- `hchacha20(K, N16)` (rule R176): no feedforward. -/
def hchacha20 (K N16 : List Byte) : List Byte :=
  let x := chachaRounds (hchachaState K N16)
  ser [x[0], x[1], x[2], x[3], x[12], x[13], x[14], x[15]]

/-- `sel_chacha(K, N)` (rule R177): a 24-byte nonce is XChaCha20, a 12-byte nonce ChaCha20 directly. -/
def selChacha (K N : List Byte) : List Byte × List Byte :=
  if N.length = 24 then (hchacha20 K (N.take 16), [0, 0, 0, 0] ++ N.drop 16) else (K, N)

/-- `ks_chacha(K', N12, q)`, for q < 2^38 (rule R178). -/
def ksChacha (K N : List Byte) (q : Pos) : Byte :=
  (chachaBlock (chachaState K N ((blockIndex q).extractLsb' 0 32))).getD (intraOffset q).toNat 0

/-- The keystream bytes of a CHACHA20_STREAM, in order (rule R179). -/
def chachaKeystream (s : State) : List Byte :=
  let sel := selChacha (cipherKey s) (nonceOperand s)
  (streamPositions s).map (ksChacha sel.1 sel.2)

/-- The effect of CHACHA20_STREAM (rule R179). The range check has passed, so no position wraps. -/
def chacha20StreamEffect (ks : Bool) (s : State) : State := advancePos (mergeDbuf ks (chachaKeystream s) s)

/-- CHACHA20_STREAM (rule R179, C4). -/
def execChacha20Stream (ks : Bool) (s : State) : Host.Outcome State Fault Refusal :=
  runCommand [checkCipherKey s, checkNonce [12, 24] s, checkLen s, checkRange s] (chacha20StreamEffect ks) s

/-- The effect of HCHACHA20 (rule R180). -/
def hchacha20Effect (s : State) : State := storeDbuf (hchacha20 (cipherKey s) (nonce16 s)) s

/-- HCHACHA20 (rule R180, C3). -/
def execHchacha20 (s : State) : Host.Outcome State Fault Refusal :=
  runCommand [checkCipherKey s, checkNonce [16] s] hchacha20Effect s

/-- The effect of CHACHA20_BLOCK (rule R181). -/
def chacha20BlockEffect (s : State) : State := storeDbuf (chachaBlock (blockOperand s)) s

/-- CHACHA20_BLOCK (rule R181): no check beyond the decoder's. -/
def execChacha20Block (s : State) : Host.Outcome State Fault Refusal :=
  runCommand [] chacha20BlockEffect s

end Sys2Proof.Machine
end

