-- ==== Sys2Proof/Machine/Rc4.lean ====
section
/-! DEFINITION. The RC4 engine (spec/40_rc4.md): key scheduling, the PRGA, and the commands RC4_KSA and RC4_PRGA. -/

namespace Sys2Proof.Machine

/-- `S[k]`. -/
def permAt (S : Vector Byte 256) (k : Byte) : Byte := S[k.toNat]'k.isLt

/-- `swap(S[a], S[b])` (00_scope.md rule R11). -/
def permSwap (S : Vector Byte 256) (a b : Byte) : Vector Byte 256 :=
  (S.set a.toNat (permAt S b) a.isLt).set b.toNat (permAt S a) b.isLt

/-- The identity ROM `ID[k] = k` (10_state.md rule R37). -/
def identityRom : Vector Byte 256 := tabulate 256 (BitVec.ofNat 8)

/-- One turn of KSA's loop, at index `i`, on `S` and `j` (rule R120). -/
def ksaStep (K : List Byte) (st : Vector Byte 256 × Byte) (i : Nat) : Vector Byte 256 × Byte :=
  let j := st.2 + permAt st.1 (BitVec.ofNat 8 i) + K.getD (i % K.length) 0
  (permSwap st.1 (BitVec.ofNat 8 i) j, j)

/-- `KSA(K)` (rule R120): from a copy of the identity ROM and `j = 0`, for i in 0..255. -/
def ksa (K : List Byte) : Vector Byte 256 := ((List.range 256).foldl (ksaStep K) (identityRom, 0)).1

/-- `PRGA_step` (rule R121): the keystream byte and the next state. -/
def prgaStep (r : Rc4) : Byte × Rc4 :=
  let i := r.i + 1
  let j := r.j + permAt r.S i
  let S := permSwap r.S i j
  (permAt S (permAt S i + permAt S j), ⟨S, i, j⟩)

/-- `n` PRGA steps: the keystream bytes in order, and the state after them (rules R121, R125). -/
def prgaRun : Nat → Rc4 → List Byte × Rc4
  | 0, r => ([], r)
  | n + 1, r =>
    let first := prgaStep r
    let rest := prgaRun n first.2
    (first.1 :: rest.1, rest.2)

/-- The effect of RC4_KSA (rule R124). -/
def rc4KsaEffect (s : State) : State :=
  { s with rc4 := ⟨ksa (rc4Key s), 0, 0⟩, status := s.status.schedule }

/-- RC4_KSA (rule R124). -/
def execRc4Ksa (s : State) : Host.Outcome State Fault Refusal :=
  runCommand [checkRc4Key s] rc4KsaEffect s

/-- The effect of RC4_PRGA (rule R125). -/
def rc4PrgaEffect (ks : Bool) (s : State) : State :=
  let run := prgaRun s.len.toNat s.rc4
  { mergeDbuf ks run.1 s with rc4 := run.2 }

/-- RC4_PRGA (rule R125). -/
def execRc4Prga (ks : Bool) (s : State) : Host.Outcome State Fault Refusal :=
  runCommand [checkLen s, checkRc4State s] (rc4PrgaEffect ks) s

end Sys2Proof.Machine
end

