-- ==== Sys2Proof/Machine/Salsa20.lean ====
section
/-! DEFINITION. The Salsa20 unit (spec/41_salsa20.md): the round transform, the block function, HSalsa20, XSalsa20, and
the commands SALSA20_STREAM, HSALSA20 and SALSA20_BLOCK. -/

namespace Sys2Proof.Machine

/-- `salsa_state(K, N, ctr)` (rule R141): key bytes 0-15 in words 1-4 and 16-31 in words 11-14. -/
def salsaState (K N : List Byte) (ctr : BitVec 64) : Block :=
  #v[c0, leWord K 0, leWord K 1, leWord K 2,
     leWord K 3, c1, leWord N 0, leWord N 1,
     ctr.extractLsb' 0 32, ctr.extractLsb' 32 32, c2, leWord K 4,
     leWord K 5, leWord K 6, leWord K 7, c3]

/-- `QR_salsa(a, b, c, d)`, in place, each line on the values the line before wrote (rule R142). -/
def qrSalsa (a b c d : Fin 16) (x : Block) : Block :=
  let x := x.set b (x[b] ^^^ rotl32 (x[a] + x[d]) 7)
  let x := x.set c (x[c] ^^^ rotl32 (x[b] + x[a]) 9)
  let x := x.set d (x[d] ^^^ rotl32 (x[c] + x[b]) 13)
  x.set a (x[a] ^^^ rotl32 (x[d] + x[c]) 18)

/-- The column round (rule R143). -/
def salsaColumnRound (x : Block) : Block :=
  let x := qrSalsa 0 4 8 12 x
  let x := qrSalsa 5 9 13 1 x
  let x := qrSalsa 10 14 2 6 x
  qrSalsa 15 3 7 11 x

/-- The row round (rule R144, C1). -/
def salsaRowRound (x : Block) : Block :=
  let x := qrSalsa 0 1 2 3 x
  let x := qrSalsa 5 6 7 4 x
  let x := qrSalsa 10 11 8 9 x
  qrSalsa 15 12 13 14 x

/-- One double-round: a column round, then a row round (rule R145). -/
def salsaDoubleRound (x : Block) : Block := salsaRowRound (salsaColumnRound x)

/-- `salsa_rounds(s)` (rule R145). -/
def salsaRounds (s : Block) : Block := Nat.iterate salsaDoubleRound Config.doubleRounds s

/-- `salsa_block(s)` (rule R146). -/
def salsaBlock (s : Block) : List Byte := feedforward (salsaRounds s) s

/-- `hsalsa_state(K, N16)` (rule R147, C7): `words_le(N16, 4)` in words 6 to 9. -/
def hsalsaState (K N16 : List Byte) : Block := salsaState K N16 (leWord N16 3 ++ leWord N16 2)

/-- `hsalsa20(K, N16)` (rule R148): no feedforward. -/
def hsalsa20 (K N16 : List Byte) : List Byte :=
  let x := salsaRounds (hsalsaState K N16)
  ser [x[0], x[5], x[10], x[15], x[6], x[7], x[8], x[9]]

/-- `sel_salsa(K, N)` (rule R149): a 24-byte nonce is XSalsa20, an 8-byte nonce Salsa20 directly. -/
def selSalsa (K N : List Byte) : List Byte × List Byte :=
  if N.length = 24 then (hsalsa20 K (N.take 16), N.drop 16) else (K, N)

/-- `ks_salsa(K', N8, q)` (rule R150). -/
def ksSalsa (K N : List Byte) (q : Pos) : Byte :=
  (salsaBlock (salsaState K N (blockIndex q))).getD (intraOffset q).toNat 0

/-- The keystream bytes of a SALSA20_STREAM, in order (rule R151). -/
def salsaKeystream (s : State) : List Byte :=
  let sel := selSalsa (cipherKey s) (nonceOperand s)
  (streamPositions s).map (ksSalsa sel.1 sel.2)

/-- The effect of SALSA20_STREAM (rule R151). -/
def salsa20StreamEffect (ks : Bool) (s : State) : State := advancePos (mergeDbuf ks (salsaKeystream s) s)

/-- SALSA20_STREAM (rule R151). -/
def execSalsa20Stream (ks : Bool) (s : State) : Host.Outcome State Fault Refusal :=
  runCommand [checkCipherKey s, checkNonce [8, 24] s, checkLen s] (salsa20StreamEffect ks) s

/-- The effect of HSALSA20 (rule R152). -/
def hsalsa20Effect (s : State) : State := storeDbuf (hsalsa20 (cipherKey s) (nonce16 s)) s

/-- HSALSA20 (rule R152, C3). -/
def execHsalsa20 (s : State) : Host.Outcome State Fault Refusal :=
  runCommand [checkCipherKey s, checkNonce [16] s] hsalsa20Effect s

/-- The effect of SALSA20_BLOCK (rule R153). -/
def salsa20BlockEffect (s : State) : State := storeDbuf (salsaBlock (blockOperand s)) s

/-- SALSA20_BLOCK (rule R153): no check beyond the decoder's. -/
def execSalsa20Block (s : State) : Host.Outcome State Fault Refusal :=
  runCommand [] salsa20BlockEffect s

end Sys2Proof.Machine
end

