-- ==== Sys2Proof/Machine/Dispatch.lean ====
section
/-! DEFINITION. From a command to its meaning: one arm per constructor. -/

namespace Sys2Proof.Machine

def exec (i : Instr) (s : State) : Host.Outcome State Fault Refusal :=
  match i with
  -- RC4 engine (spec/40_rc4.md)
  | .rc4Ksa => Sys2Proof.Machine.execRc4Ksa s
  | .rc4Prga ks => Sys2Proof.Machine.execRc4Prga ks s
  -- Salsa20 unit (spec/41_salsa20.md)
  | .salsa20Stream ks => Sys2Proof.Machine.execSalsa20Stream ks s
  | .hsalsa20 => Sys2Proof.Machine.execHsalsa20 s
  | .salsa20Block => Sys2Proof.Machine.execSalsa20Block s
  -- ChaCha20 unit (spec/42_chacha20.md)
  | .chacha20Stream ks => Sys2Proof.Machine.execChacha20Stream ks s
  | .hchacha20 => Sys2Proof.Machine.execHchacha20 s
  | .chacha20Block => Sys2Proof.Machine.execChacha20Block s

end Sys2Proof.Machine
end

