-- ==== Sys2Proof/Machine/Step.lean ====
section
/-! DEFINITION. One step of the CORE and the host beside it (00_scope.md rule R12). -/

namespace Sys2Proof.Machine

/-- The sequencer performs the latched command as one atomic step: decoding is the first check
(60_exceptions.md rules R222, R228). -/
def commandStep (s : State) : Host.Outcome State Fault Refusal :=
  match decode s.latchedCmd with
  | .ok i => exec i s
  | .error _ => .next (raiseCmdError .illegal s)

/-- One step. An idle CORE with a silent host stays as it is (70_reset_and_hazards.md rule R261). -/
def step (s : State) : Host.Outcome State Fault Refusal :=
  match nextTurn s with
  | .idle => .next s
  | .command => commandStep s
  | .host e rest => hostStep e rest s

/-- The state in which the host's CMD write of `w` has just been accepted (10_state.md rule R20) and the command's own
step is the next: no further host access, and no reset, comes before it. Log entry 10. -/
def State.withFetchWord (s : State) (nbits w : Nat) : State :=
  { acceptCommand (tableWord nbits w) s with
    busyLeft := 0
    hostQueue := s.hostQueue.dropWhile (· == .reset) }

end Sys2Proof.Machine
end

