-- ==== Sys2Proof/Machine/HostAsm.lean ====
section
/-! DEFINITION. The host's assembly syntax as bus events (30_encoding.md rules R98 to R101): register symbols, `wr`,
`rd`, and the pseudo-instructions with their expansions. -/

namespace Sys2Proof.Machine.HostAsm

/-- The register symbols (rule R99). -/
inductive Sym where
  | CMD
  | STATUS
  | KEYLEN
  | NONCELEN
  | LEN
  | POS0
  | POS1
  | POS2
  | BLK0
  | BLK1
  | OFFS
  | KEY
  | NONCE
  | DBUF
deriving DecidableEq, Repr

/-- The offsets of the register symbols (rule R99). -/
def symOffset : Sym → Nat
  | .CMD => 0x000
  | .STATUS => 0x004
  | .KEYLEN => 0x008
  | .NONCELEN => 0x00C
  | .LEN => 0x010
  | .POS0 => 0x014
  | .POS1 => 0x018
  | .POS2 => 0x01C
  | .BLK0 => 0x020
  | .BLK1 => 0x024
  | .OFFS => 0x028
  | .KEY => 0x100
  | .NONCE => 0x200
  | .DBUF => 0x800

/-- `wr loc, value`, `loc` a symbol plus an offset (rule R98). -/
def wr (r : Sym) (plus : Nat) (v : Word) : HostEvent := .write (symOffset r + plus) 4 v

/-- `rd loc` (rule R98). -/
def rd (r : Sym) (plus : Nat) : HostEvent := .read (symOffset r + plus) 4

/-- `cmd M[.ks]` (rules R100, R101): the command word is the encoder's. -/
def cmd (i : Instr) : List HostEvent := [wr .CMD 0 (encode i)]

/-- `wait` (rule R100). -/
def wait : List HostEvent := [.poll]

/-- `run M[.ks]` (rule R100). -/
def run (i : Instr) : List HostEvent := cmd i ++ wait

/-- The word writes of `b[0..n-1]` at a buffer: for w in 0..ceil(n/4)-1, bytes beyond n-1 taken as 0 (rule R100). -/
def bufferWrites (r : Sym) (b : List Byte) : List HostEvent :=
  (List.range ((b.length + 3) / 4)).map fun w => wr r (4 * w) (leWord b w)

/-- `setkey b` (rule R100). -/
def setkey (b : List Byte) : List HostEvent := wr .KEYLEN 0 (BitVec.ofNat 32 b.length) :: bufferWrites .KEY b

/-- `setnonce b` (rule R100). -/
def setnonce (b : List Byte) : List HostEvent := wr .NONCELEN 0 (BitVec.ofNat 32 b.length) :: bufferWrites .NONCE b

/-- `load b` (rule R100). -/
def load (b : List Byte) : List HostEvent := bufferWrites .DBUF b

/-- `setlen n` (rule R100). -/
def setlen (n : Word) : List HostEvent := [wr .LEN 0 n]

/-- `setpos p` (rule R100). -/
def setpos (p : Pos) : List HostEvent := [wr .POS0 0 (posLow p), wr .POS1 0 (posMid p), wr .POS2 0 (posHigh p)]

end Sys2Proof.Machine.HostAsm
end

