-- ==== Sys2Proof/Safety.lean ====
section
/-! DEFINITION. What holds of every state a run reaches, and what a run inside the contract is. -/

namespace Sys2Proof.Machine

/-- The STATUS bits fit together (10_state.md rules R20, R22 to R24, 60_exceptions.md rule R221): DONE and ERR are never
both 1; ERRCODE is 0 when ERR is 0 and one of the codes 1 to 6 when ERR is 1; while BUSY neither DONE nor ERR is 1. -/
def Status.Consistent (t : Status) : Prop :=
  ¬(t.done = true ∧ t.err = true) ∧
  (t.err = false → t.errcode = 0) ∧
  (t.err = true → 1 ≤ t.errcode.toNat ∧ t.errcode.toNat ≤ 6) ∧
  (t.busy = true → t.done = false ∧ t.err = false)

/-- `S` is a permutation of 0..255. -/
def IsPermutation (S : Vector Byte 256) : Prop := Function.Bijective (permAt S)

/-- The invariant of the CORE: STATUS is consistent, and whenever RC4V = 1, `S` is a permutation (10_state.md rule
R36). -/
def State.Inv (s : State) : Prop :=
  s.status.Consistent ∧ (s.status.rc4v = true → IsPermutation s.rc4.S)

/-- Every waiting host access is inside the contract (20_memory.md rules R60, R67). -/
def State.Contracted (s : State) : Prop := ∀ e ∈ s.hostQueue, e.problem = none

/-- The states of the runs from reset, the outside world adding events at any time. -/
inductive Reachable : State → Prop where
  | reset : Reachable State.reset
  | step {s t : State} : Reachable s → step s = .next t → Reachable t
  | issue {s : State} (events : List HostEvent) : Reachable s → Reachable (issue events s)

/-- A safe run: as long as the host keeps to the contract, every state has a next state, and the invariant holds. -/
def SafeRun (s : State) : Prop := s.Inv ∧ (s.Contracted → ∃ t, step s = .next t)

end Sys2Proof.Machine
end

