-- ==== Sys2Proof/Certificates/Slice0/Obligations.lean ====
section
/-! DEFINITION. The statements about the CORE, and under `Sys2Proof.Spec` the spec's own wording they are measured
against: its pseudocode loops over natural numbers, its tables of checks and of written bytes. -/

namespace Sys2Proof.Spec

open Sys2Proof.Machine

/-! ## RC4 over natural numbers (40_rc4.md rules R120, R121) -/

/-- `swap(S[a], S[b])` of an array seen as a function. -/
def swapAt (S : Nat → Nat) (a b : Nat) : Nat → Nat :=
  fun k => if k = b then S a else if k = a then S b else S k

/-- KSA's loop after `i` turns: `S` and `j` (rule R120, from the identity and `j = 0`). -/
def ksaLoop (K : List Byte) : Nat → (Nat → Nat) × Nat
  | 0 => (fun k => k, 0)
  | i + 1 =>
    let S := (ksaLoop K i).1
    let j := ((ksaLoop K i).2 + S i + (K.getD (i % K.length) 0).toNat) % 256
    (swapAt S i j, j)

/-- `S` as a function to natural numbers. -/
def permNat (S : Vector Byte 256) : Nat → Nat := fun k => (S[k]?.getD 0).toNat

/-- RC4_PRGA's loop of rule R125 after `n` turns: DBUF and the RC4 state. -/
def prgaLoop (ks : Bool) (d : Vector Byte Config.dbufBytes) (r : Rc4) : Nat → Vector Byte Config.dbufBytes × Rc4
  | 0 => (d, r)
  | t + 1 =>
    let before := prgaLoop ks d r t
    let out := prgaStep before.2
    (before.1.setIfInBounds t (merge (before.1[t]?.getD 0) out.1 ks), out.2)

/-- One RC4_PRGA of a sequence: its KS, its LEN, and what the host has put in DBUF before it. -/
structure Chunk where
  ks : Bool
  len : BitVec 16
  data : Vector Byte Config.dbufBytes

/-- The data bytes that a sequence of RC4_PRGA commands covers, in order, each with its command's KS. -/
def chunkData (l : List Chunk) : List (Byte × Bool) :=
  l.flatMap fun c => (c.data.toList.take c.len.toNat).map fun d => (d, c.ks)

/-- Issue RC4_PRGA commands one after another: the bytes they leave in `DBUF[0..LEN-1]`, in order, and the state after
the last. -/
def prgaCommands : List Chunk → State → List Byte × State
  | [], s => ([], s)
  | c :: l, s =>
    match exec (.rc4Prga c.ks) { s with len := c.len, dbuf := c.data } with
    | .next t => (t.dbuf.toList.take c.len.toNat ++ (prgaCommands l t).1, (prgaCommands l t).2)
    | .fault _ | .refused _ => ([], s)

/-- The RC4 state after `m` PRGA steps. -/
def prgaSteps (m : Nat) (r : Rc4) : Rc4 := Nat.iterate (fun r => (prgaStep r).2) m r

/-! ## Salsa20 and ChaCha20 streams (41_salsa20.md rule R151, 42_chacha20.md rule R179) -/

/-- The loop `for t in 0..n-1: DBUF[t] <- merge(DBUF[t], ks_t, KS)`. -/
def streamLoop (ks : Bool) (byteAt : Nat → Byte) (d : Vector Byte Config.dbufBytes) :
    Nat → Vector Byte Config.dbufBytes
  | 0 => d
  | t + 1 =>
    let before := streamLoop ks byteAt d t
    before.setIfInBounds t (merge (before[t]?.getD 0) (byteAt t) ks)

/-- The key and nonce of a SALSA20_STREAM, chosen by NONCELEN (rule R149). -/
def salsaKeyNonce (s : State) : List Byte × List Byte :=
  if s.nonceLen.toNat = 24 then
    (hsalsa20 (s.key.toList.take 32) (s.nonce.toList.take 16), (s.nonce.toList.drop 16).take 8)
  else (s.key.toList.take 32, s.nonce.toList.take 8)

/-- The key and nonce of a CHACHA20_STREAM, chosen by NONCELEN (rule R177). -/
def chachaKeyNonce (s : State) : List Byte × List Byte :=
  if s.nonceLen.toNat = 24 then
    (hchacha20 (s.key.toList.take 32) (s.nonce.toList.take 16), [0, 0, 0, 0] ++ (s.nonce.toList.drop 16).take 8)
  else (s.key.toList.take 32, s.nonce.toList.take 12)

/-- The Salsa20 keystream byte at position `q`: byte `q mod 64` of the block with counter `q div 64` (rule R150). -/
def salsaByteAt (K N : List Byte) (q : Nat) : Byte :=
  (salsaBlock (salsaState K N (BitVec.ofNat 64 (q / 64)))).getD (q % 64) 0

/-- The ChaCha20 keystream byte at position `q` (rule R178). -/
def chachaByteAt (K N : List Byte) (q : Nat) : Byte :=
  (chachaBlock (chachaState K N (BitVec.ofNat 32 (q / 64)))).getD (q % 64) 0

/-- Apply a quarter-round to each of a list of index quadruples, in order. -/
def quarterRounds (qr : Fin 16 → Fin 16 → Fin 16 → Fin 16 → Block → Block)
    (l : List (Fin 16 × Fin 16 × Fin 16 × Fin 16)) (x : Block) : Block :=
  l.foldl (fun x q => qr q.1 q.2.1 q.2.2.1 q.2.2.2 x) x

/-! ## The checks (60_exceptions.md rules R223 to R228) -/

/-- Check 2 of rule R228's table, KEYLEN (rule R223). -/
def keyLenFails (s : State) : Instr → Bool
  | .rc4Ksa => s.keyLen.toNat == 0 || decide (256 < s.keyLen.toNat)
  | .salsa20Stream _ | .hsalsa20 | .chacha20Stream _ | .hchacha20 => s.keyLen.toNat != 32
  | .rc4Prga _ | .salsa20Block | .chacha20Block => false

/-- Check 3, NONCELEN (rule R224). -/
def nonceLenFails (s : State) : Instr → Bool
  | .salsa20Stream _ => s.nonceLen.toNat != 8 && s.nonceLen.toNat != 24
  | .chacha20Stream _ => s.nonceLen.toNat != 12 && s.nonceLen.toNat != 24
  | .hsalsa20 | .hchacha20 => s.nonceLen.toNat != 16
  | .rc4Ksa | .rc4Prga _ | .salsa20Block | .chacha20Block => false

/-- Check 4, LEN (rule R225). -/
def lenFails (s : State) : Instr → Bool
  | .rc4Prga _ | .salsa20Stream _ | .chacha20Stream _ => decide (Config.dbufBytes < s.len.toNat)
  | .rc4Ksa | .hsalsa20 | .salsa20Block | .hchacha20 | .chacha20Block => false

/-- Check 5, NOSTATE (rule R226). -/
def noStateFails (s : State) : Instr → Bool
  | .rc4Prga _ => !s.status.rc4v
  | .rc4Ksa | .salsa20Stream _ | .hsalsa20 | .salsa20Block | .chacha20Stream _ | .hchacha20 | .chacha20Block => false

/-- Check 6, CTRRANGE (rule R227), the sum unbounded. -/
def ctrRangeFails (s : State) : Instr → Bool
  | .chacha20Stream _ => decide (0 < s.len.toNat ∧ 2 ^ 38 ≤ s.pos.toNat + s.len.toNat - 1)
  | .rc4Ksa | .rc4Prga _ | .salsa20Stream _ | .hsalsa20 | .salsa20Block | .hchacha20 | .chacha20Block => false

/-- The code of the first check of a legal command that fails, in the order 2 to 6; 0 if none fails (rules R221,
R228). -/
def firstFailingCode (s : State) (i : Instr) : BitVec 4 :=
  if keyLenFails s i then 2
  else if nonceLenFails s i then 3
  else if lenFails s i then 4
  else if noStateFails s i then 5
  else if ctrRangeFails s i then 6
  else 0

/-- The state a rejection with a code leaves: STATUS alone changes (rule R229). -/
def rejected (code : BitVec 4) (s : State) : State :=
  { s with status := { s.status with busy := false, done := false, err := true, errcode := code } }

/-- STATUS after a completed command (rule R230), RC4V apart. -/
def completed (t : Status) : Status := { t with busy := false, done := true, err := false, errcode := 0 }

/-! ## Who writes what (10_state.md rules R35, R46) -/

/-- How many bytes of DBUF, from `DBUF[0]` on, a completed command writes (rule R35). -/
def dbufWritten (s : State) : Instr → Nat
  | .rc4Ksa => 0
  | .rc4Prga _ | .salsa20Stream _ | .chacha20Stream _ => s.len.toNat
  | .hsalsa20 | .hchacha20 => 32
  | .salsa20Block | .chacha20Block => 64

/-! ## Events -/

/-- The next host event is `e`, and it reaches the CORE in this step: either BUSY = 0, or LATENCY lets another access
come before the command's step. -/
def Arrives (s : State) (e : HostEvent) (rest : List HostEvent) : Prop :=
  s.hostQueue = e :: rest ∧ (s.status.busy = true → 0 < s.busyLeft)

/-- The next step is the step of the accepted command. -/
def CommandDue (s : State) : Prop :=
  s.status.busy = true ∧
    (s.hostQueue = [] ∨ (∃ rest, s.hostQueue = .poll :: rest) ∨
      (s.busyLeft = 0 ∧ ∀ rest, s.hostQueue ≠ .reset :: rest))

/-- Byte `k` of a buffer after the word writes of `b` at its start: `b`'s own bytes, then 0 up to the end of the last word
(`4 * ceil(n/4)`), then what was there (30_encoding.md rule R100). -/
def loadedByte {n : Nat} (b : List Byte) (before : Vector Byte n) (k : Nat) : Option Byte :=
  if k < b.length then b[k]? else if k < 4 * ((b.length + 3) / 4) then some 0 else before[k]?

/-- The state once the next event has been taken from the queue. -/
def taken (rest : List HostEvent) (s : State) : State :=
  { s with hostQueue := rest, busyLeft := s.busyLeft - 1 }

end Sys2Proof.Spec

open Sys2Proof Sys2Proof.Machine

/-! ## Encoding (spec/30_encoding.md) -/

/-- 30_encoding.md rule R101: the command words of the mnemonics, and `.ks` adds 0x100; each word decodes to its
command (rule R91). -/
def Obligations.CommandWordsAreTheListedOnes : Prop :=
  encode .rc4Ksa = 0x00000001 ∧ encode (.rc4Prga false) = 0x00000002 ∧ encode (.salsa20Stream false) = 0x00000010 ∧
  encode .hsalsa20 = 0x00000011 ∧ encode .salsa20Block = 0x00000012 ∧ encode (.chacha20Stream false) = 0x00000020 ∧
  encode .hchacha20 = 0x00000021 ∧ encode .chacha20Block = 0x00000022 ∧
  encode (.rc4Prga true) = 0x00000102 ∧ encode (.salsa20Stream true) = 0x00000110 ∧
  encode (.chacha20Stream true) = 0x00000120 ∧
  encode (.rc4Prga true) = encode (.rc4Prga false) + 0x100 ∧
  encode (.salsa20Stream true) = encode (.salsa20Stream false) + 0x100 ∧
  encode (.chacha20Stream true) = encode (.chacha20Stream false) + 0x100 ∧
  decode 0x00000001 = .ok .rc4Ksa ∧ decode 0x00000102 = .ok (.rc4Prga true) ∧
  decode 0x00000012 = .ok .salsa20Block ∧ decode 0x00000120 = .ok (.chacha20Stream true)

/-- Decode and encode agree on every word and every command: a word decodes to a command exactly when it is that
command's word, so no bit of a word is dropped (30_encoding.md rules R90, R91, R93). -/
def Obligations.DecodeIsTheInverseOfEncode : Prop :=
  ∀ (w : Word) (i : Instr), decode w = .ok i ↔ w = encode i

/-- 30_encoding.md rule R93: the decode function, written over the number `w`; a due command whose word is ILLEGAL is
rejected with code 1, whatever else the state holds. -/
def Obligations.DecodeFollowsTheOpcodeCases : Prop :=
  (∀ w : Word,
    (w.toNat / 512 ≠ 0 → ∃ e, decode w = .error e) ∧
    (w.toNat / 512 = 0 →
      (w.toNat % 256 = 0x01 → if w.toNat / 256 % 2 = 0 then decode w = .ok .rc4Ksa else ∃ e, decode w = .error e) ∧
      (w.toNat % 256 = 0x02 → decode w = .ok (.rc4Prga (decide (w.toNat / 256 % 2 = 1)))) ∧
      (w.toNat % 256 = 0x10 → decode w = .ok (.salsa20Stream (decide (w.toNat / 256 % 2 = 1)))) ∧
      (w.toNat % 256 = 0x11 → if w.toNat / 256 % 2 = 0 then decode w = .ok .hsalsa20 else ∃ e, decode w = .error e) ∧
      (w.toNat % 256 = 0x12 →
        if w.toNat / 256 % 2 = 0 then decode w = .ok .salsa20Block else ∃ e, decode w = .error e) ∧
      (w.toNat % 256 = 0x20 → decode w = .ok (.chacha20Stream (decide (w.toNat / 256 % 2 = 1)))) ∧
      (w.toNat % 256 = 0x21 → if w.toNat / 256 % 2 = 0 then decode w = .ok .hchacha20 else ∃ e, decode w = .error e) ∧
      (w.toNat % 256 = 0x22 →
        if w.toNat / 256 % 2 = 0 then decode w = .ok .chacha20Block else ∃ e, decode w = .error e) ∧
      (w.toNat % 256 ∉ [0x01, 0x02, 0x10, 0x11, 0x12, 0x20, 0x21, 0x22] → ∃ e, decode w = .error e))) ∧
  (∀ s : State, Spec.CommandDue s → (∃ e, decode s.latchedCmd = .error e) → step s = .next (Spec.rejected 1 s))

/-! ## The step -/

/-- A due step runs the command its latched word decodes to (00_scope.md rule R12, 10_state.md rule R40). When a command
is due is the model's choice in log entry 5; that `withFetchWord` stands for an accepted CMD write, with no access before
the command's step, is its choice in log entry 10. -/
def Obligations.StepRunsTheDecodedCommand : Prop :=
  (∀ (s : State) (i : Instr), Spec.CommandDue s → decode s.latchedCmd = .ok i → step s = exec i s) ∧
  (∀ (s : State) (i : Instr),
    step (s.withFetchWord 32 (encode i).toNat) = exec i (s.withFetchWord 32 (encode i).toNat))

/-- An idle CORE with a silent host keeps all its state (70_reset_and_hazards.md rule R261, 60_exceptions.md rule
R241); so the run from reset with nothing issued stays at reset. That there is a step at all is the model's choice (log
entry 11). -/
def Obligations.IdleCoreHoldsItsState : Prop :=
  (∀ s : State, s.status.busy = false → s.hostQueue = [] → step s = .next s) ∧ step State.reset = .next State.reset

/-- Every accepted command completes after finitely many host accesses (70_reset_and_hazards.md rule R272, 10_state.md
rule R22): if the waiting accesses are inside the contract, BUSY is 0 within `busyLeft + 1` steps. The count `busyLeft` is
the model's form of LATENCY (log entry 5). -/
def Obligations.AcceptedCommandsFinish : Prop :=
  ∀ s : State, s.status.busy = true → s.Contracted →
    ∃ (n : Nat) (t : State), n ≤ s.busyLeft + 1 ∧ core.run n s = .next t ∧ t.status.busy = false

/-- An access of another width, misaligned, or outside the window has no step (20_memory.md rules R67 and R60,
93_implementation_defined.md U6 and U7; for the window, log entry 12), and nothing else has none: every other step
answers a next state (for an idle CORE by the model's choice, log entry 11). -/
def Obligations.OnlyOutOfContractAccessesAreRefused : Prop :=
  (∀ (s : State) (off bytes : Nat) (rest : List HostEvent), bytes ≠ 4 ∨ off % 4 ≠ 0 ∨ 4096 ≤ off →
    Spec.Arrives s (.read off bytes) rest → ∃ r, step s = .refused r) ∧
  (∀ (s : State) (off bytes : Nat) (v : Word) (rest : List HostEvent), bytes ≠ 4 ∨ off % 4 ≠ 0 ∨ 4096 ≤ off →
    Spec.Arrives s (.write off bytes v) rest → ∃ r, step s = .refused r) ∧
  (∀ s : State, (∃ t, step s = .next t) ∨
    ∃ (off bytes : Nat) (v : Word) (rest : List HostEvent),
      (Spec.Arrives s (.read off bytes) rest ∨ Spec.Arrives s (.write off bytes v) rest) ∧
      (bytes ≠ 4 ∨ off % 4 ≠ 0 ∨ 4096 ≤ off))

/-! ## Reset -/

/-- 10_state.md rule R43: after reset, the first or any later one, every host register reads its reset value, and
every STATUS field is 0. -/
def Obligations.ResetLeavesTheListedRegisterValues : Prop :=
  ∀ (t : State), (t = State.reset ∨ ∃ (s : State) (rest : List HostEvent), s.hostQueue = .reset :: rest ∧
      step s = .next t) →
    t.status = ⟨false, false, false, false, false, 0⟩ ∧ t.keyLen = 0 ∧ t.nonceLen = 0 ∧ t.len = 0 ∧ t.pos = 0 ∧
    ∀ off ∈ [0x000, 0x004, 0x008, 0x00C, 0x010, 0x014, 0x018, 0x01C, 0x020, 0x024, 0x028],
      (readValue t (locate off)).1 = 0

/-- 70_reset_and_hazards.md rule R260: reset comes before a waiting access and before a command in progress, which is
abandoned. The buffers and the RC4 state are a new draw, the model's form of 'unspecified' (log entries 1 and 2); that the
host's accesses and what it has read stay is log entry 8's. -/
def Obligations.ResetTakesPrecedence : Prop :=
  ∀ (s : State) (rest : List HostEvent), s.hostQueue = .reset :: rest →
    ∃ t, step s = .next t ∧ t.status = Status.clear ∧ t.keyLen = 0 ∧ t.nonceLen = 0 ∧ t.len = 0 ∧ t.pos = 0 ∧
      t.hostQueue = rest ∧ t.readLog = s.readLog ∧ t.resets = s.resets + 1 ∧
      (∀ k < 256, t.key[k]? = some (Config.resetByte t.resets (0x100 + k))) ∧
      (∀ k < 24, t.nonce[k]? = some (Config.resetByte t.resets (0x200 + k))) ∧
      (∀ k < Config.dbufBytes, t.dbuf[k]? = some (Config.resetByte t.resets (0x800 + k))) ∧
      (∀ k < 256, t.rc4.S[k]? = some (Config.resetPerm t.resets k)) ∧
      t.rc4.i = Config.resetI t.resets ∧ t.rc4.j = Config.resetJ t.resets

/-! ## Registers and buffers on the bus -/

/-- 10_state.md rule R20: CMD reads 0, busy or not; a write while BUSY = 0 accepts the command, whatever its value; a
write while BUSY = 1 is dropped; the value's fields are OP[7:0], KS[8] and RSV[31:9]. How long the command stays BUSY
is the model's choice of a free value (log entry 5). -/
def Obligations.CmdWriteAcceptsTheCommand : Prop :=
  (∀ s : State, (readValue s (locate 0x000)).1 = 0) ∧
  (∀ v : Word, (fieldsOf v).op.toNat = v.toNat % 256 ∧ (fieldsOf v).ks = decide (v.toNat / 256 % 2 = 1) ∧
    (fieldsOf v).rsv.toNat = v.toNat / 512) ∧
  (∀ (s : State) (v : Word) (rest : List HostEvent), s.hostQueue = .write 0x000 4 v :: rest → s.status.busy = false →
    step s = .next { s with
      latchedCmd := v
      status := ⟨true, false, false, s.status.rc4v, false, 0⟩
      hostQueue := rest
      busyLeft := Config.latency s.accepted
      accepted := s.accepted + 1 }) ∧
  (∀ (s : State) (v : Word) (rest : List HostEvent), Spec.Arrives s (.write 0x000 4 v) rest → s.status.busy = true →
    step s = .next { Spec.taken rest s with status := { s.status with wdrop := true } })

/-- 20_memory.md rule R73: while BUSY = 1 every host write, at any offset of the window, is dropped and sets WDROP;
nothing of the CORE changes but that bit. -/
def Obligations.WritesWhileBusyAreDropped : Prop :=
  ∀ (s : State) (off : Nat) (v : Word) (rest : List HostEvent), off < 4096 → off % 4 = 0 →
    Spec.Arrives s (.write off 4 v) rest → s.status.busy = true →
    step s = .next { Spec.taken rest s with status := { s.status with wdrop := true } }

/-- 10_state.md rule R26: a host write that arrives while BUSY = 1 sets WDROP, and nothing else does; an accepted
command and reset clear it, and nothing else does; setting it sets no ERR, and no command's course depends on it. -/
def Obligations.WdropChangesOnlyAsRuled : Prop :=
  (∀ (i : Instr) (s t : State) (b : Bool), exec i s = .next t →
    exec i { s with status := { s.status with wdrop := b } } = .next { t with status := { t.status with wdrop := b } }) ∧
  ∀ s t : State, step s = .next t →
    (∀ (off : Nat) (v : Word) (rest : List HostEvent), s.status.busy = true → Spec.Arrives s (.write off 4 v) rest →
      t.status.wdrop = true ∧ t.status.err = s.status.err) ∧
    (∀ (v : Word) (rest : List HostEvent), s.status.busy = false → s.hostQueue = .write 0x000 4 v :: rest →
      t.status.wdrop = false) ∧
    (∀ rest, s.hostQueue = .reset :: rest → t.status.wdrop = false) ∧
    (s.status.wdrop = false → t.status.wdrop = true →
      s.status.busy = true ∧ (∃ (off : Nat) (v : Word) (rest : List HostEvent),
        s.hostQueue = .write off 4 v :: rest ∧ t = { Spec.taken rest s with status := { s.status with wdrop := true } })) ∧
    (s.status.wdrop = true → t.status.wdrop = false →
      (∃ rest, s.hostQueue = .reset :: rest) ∨
      (s.status.busy = false ∧ ∃ (v : Word) (rest : List HostEvent), s.hostQueue = .write 0x000 4 v :: rest))

/-- 20_memory.md rule R74: what a read returns while BUSY = 1. At DBUF, POS0 to POS2, BLK0, BLK1 and OFFS it is the
next free value, and the counter moves on, so that two reads are independent (the model's form of an unspecified
value, log entry 6); STATUS, KEYLEN, NONCELEN, LEN, KEY and NONCE read their current values; CMD and reserved offsets
read 0. A read changes nothing else. -/
def Obligations.ReadsWhileBusy : Prop :=
  ∀ (s : State) (off : Nat) (rest : List HostEvent), off < 4096 → off % 4 = 0 →
    Spec.Arrives s (.read off 4) rest → s.status.busy = true →
    ∃ (v : Word) (d : Nat), step s = .next { Spec.taken rest s with readLog := ⟨off, v⟩ :: s.readLog, draws := d } ∧
      ((0x014 ≤ off ∧ off < 0x02C) ∨ (0x800 ≤ off ∧ off < 0x800 + Config.dbufBytes) →
        v = Config.busyRead s.draws ∧ d = s.draws + 1) ∧
      (off = 0x004 → v = s.status.word ∧ d = s.draws) ∧
      (off = 0x008 → v.toNat = s.keyLen.toNat ∧ d = s.draws) ∧
      (off = 0x00C → v.toNat = s.nonceLen.toNat ∧ d = s.draws) ∧
      (off = 0x010 → v.toNat = s.len.toNat ∧ d = s.draws) ∧
      (0x100 ≤ off ∧ off < 0x200 → v = bufferWord s.key (off - 0x100) ∧ d = s.draws) ∧
      (0x200 ≤ off ∧ off < 0x218 → v = bufferWord s.nonce (off - 0x200) ∧ d = s.draws) ∧
      (off = 0x000 ∨ (0x02C ≤ off ∧ off < 0x100) ∨ (0x218 ≤ off ∧ off < 0x800) ∨ 0x800 + Config.dbufBytes ≤ off →
        v = 0 ∧ d = s.draws)

/-- A read while idle returns what stands at its offset and changes nothing else, at every offset of the window
(20_memory.md rule R68); CMD reads 0 and the length registers their value (10_state.md rules R20, R27 to R29). Reserved
bits read 0 and the bits written to them are discarded, in every register that has some; after a write the register reads
back the kept bits of the value (20_memory.md rule R63). -/
def Obligations.ReservedRegisterBitsAreNotStored : Prop :=
  (∀ (s : State) (off : Nat) (rest : List HostEvent), off < 4096 → off % 4 = 0 → s.status.busy = false →
    s.hostQueue = .read off 4 :: rest →
    ∃ v : Word, step s = .next { Spec.taken rest s with readLog := ⟨off, v⟩ :: s.readLog } ∧
      v = locValue s (locate off) ∧ (off = 0x000 → v = 0) ∧ (off = 0x008 → v.toNat = s.keyLen.toNat) ∧
      (off = 0x00C → v.toNat = s.nonceLen.toNat) ∧ (off = 0x010 → v.toNat = s.len.toNat)) ∧
  (∀ (s : State) (v : Word) (rest : List HostEvent), s.status.busy = false →
    (s.hostQueue = .write 0x008 4 v :: rest → ∃ t, step s = .next t ∧ t = { Spec.taken rest s with keyLen := t.keyLen } ∧
      (locValue t (locate 0x008)).toNat = v.toNat % 512) ∧
    (s.hostQueue = .write 0x00C 4 v :: rest →
      ∃ t, step s = .next t ∧ t = { Spec.taken rest s with nonceLen := t.nonceLen } ∧
        (locValue t (locate 0x00C)).toNat = v.toNat % 32) ∧
    (s.hostQueue = .write 0x010 4 v :: rest → ∃ t, step s = .next t ∧ t = { Spec.taken rest s with len := t.len } ∧
      (locValue t (locate 0x010)).toNat = v.toNat % 65536) ∧
    (s.hostQueue = .write 0x01C 4 v :: rest → ∃ t, step s = .next t ∧ t = { Spec.taken rest s with pos := t.pos } ∧
      t.pos.toNat = s.pos.toNat % 2 ^ 64 + 2 ^ 64 * (v.toNat % 64) ∧
      (locValue t (locate 0x01C)).toNat = v.toNat % 64)) ∧
  (∀ s : State, (locValue s (locate 0x004)).toNat < 4096 ∧ (locValue s (locate 0x004)).toNat / 32 % 8 = 0 ∧
    (locValue s (locate 0x028)).toNat < 64)

/-- 10_state.md rule R30: POS is POS2[5:0] ++ POS1 ++ POS0; each of the three registers is read and written on its own;
all three are 0 at reset. -/
def Obligations.PositionIsHeldInThreeRegisters : Prop :=
  (∀ s : State, s.pos.toNat = (locValue s (locate 0x014)).toNat + 2 ^ 32 * (locValue s (locate 0x018)).toNat +
    2 ^ 64 * (locValue s (locate 0x01C)).toNat) ∧
  (∀ (s : State) (off : Nat) (rest : List HostEvent), off ∈ [0x014, 0x018, 0x01C] → s.status.busy = false →
    s.hostQueue = .read off 4 :: rest →
    step s = .next { Spec.taken rest s with readLog := ⟨off, locValue s (locate off)⟩ :: s.readLog }) ∧
  (∀ (s : State) (off : Nat) (v : Word) (rest : List HostEvent), off ∈ [0x014, 0x018, 0x01C] →
    s.status.busy = false → s.hostQueue = .write off 4 v :: rest →
    ∃ t, step s = .next t ∧ t = { Spec.taken rest s with pos := t.pos } ∧
      ∀ o ∈ [0x014, 0x018, 0x01C], locValue t (locate o) =
        if o = off then (if o = 0x01C then v % 64 else v) else locValue s (locate o)) ∧
  State.reset.pos = 0

/-- 10_state.md rule R32: BLK0, BLK1 and OFFS show POS div 64 and POS mod 64 at the moment of the read, and a write to
them is ignored. -/
def Obligations.DecoderViewsFollowPosition : Prop :=
  (∀ s : State,
    (locValue s (locate 0x020)).toNat = s.pos.toNat / 64 % 2 ^ 32 ∧
    (locValue s (locate 0x024)).toNat = s.pos.toNat / 64 / 2 ^ 32 ∧
    (locValue s (locate 0x028)).toNat = s.pos.toNat % 64) ∧
  (∀ (s : State) (off : Nat) (v : Word) (rest : List HostEvent), off ∈ [0x020, 0x024, 0x028] →
    s.status.busy = false →
    (s.hostQueue = .read off 4 :: rest →
      step s = .next { Spec.taken rest s with readLog := ⟨off, locValue s (locate off)⟩ :: s.readLog }) ∧
    (s.hostQueue = .write off 4 v :: rest → step s = .next (Spec.taken rest s)))

/-- 10_state.md rule R21: the places of the STATUS bits, the reserved bits 0; reading STATUS has no side effect and
writing it is ignored; all of it is 0 at reset. -/
def Obligations.StatusWordHoldsTheFieldsInPlace : Prop :=
  (∀ t : Status,
    t.word.toNat = t.busy.toNat + 2 * t.done.toNat + 4 * t.err.toNat + 8 * t.rc4v.toNat + 16 * t.wdrop.toNat +
      256 * t.errcode.toNat) ∧
  (∀ (s : State) (rest : List HostEvent), Spec.Arrives s (.read 0x004 4) rest →
    step s = .next { Spec.taken rest s with readLog := ⟨0x004, s.status.word⟩ :: s.readLog }) ∧
  (∀ (s : State) (v : Word) (rest : List HostEvent), s.status.busy = false → s.hostQueue = .write 0x004 4 v :: rest →
    step s = .next (Spec.taken rest s)) ∧
  State.reset.status.word = 0

/-- 20_memory.md rule R64: the lanes of KEY, NONCE and DBUF on the bus. A read packs four bytes little-endian; a write
sets exactly the four bytes of its word. After SALSA20_BLOCK the bus reads word k of the output at DBUF word k. -/
def Obligations.BufferWordsAreLittleEndian : Prop :=
  (∀ (s : State) (base w : Nat) (rest : List HostEvent),
    (base = 0x100 ∧ w < 64) ∨ (base = 0x200 ∧ w < 6) ∨ (base = 0x800 ∧ 4 * w < Config.dbufBytes) →
    s.status.busy = false → s.hostQueue = .read (base + 4 * w) 4 :: rest →
    ∃ b0 b1 b2 b3 : Byte,
      bufferByte s (base + 4 * w) = some b0 ∧ bufferByte s (base + 4 * w + 1) = some b1 ∧
      bufferByte s (base + 4 * w + 2) = some b2 ∧ bufferByte s (base + 4 * w + 3) = some b3 ∧
      step s = .next { Spec.taken rest s with
        readLog := ⟨base + 4 * w, BitVec.ofNat 32 (b0.toNat + 2 ^ 8 * b1.toNat + 2 ^ 16 * b2.toNat + 2 ^ 24 * b3.toNat)⟩ ::
          s.readLog }) ∧
  (∀ (s : State) (base w : Nat) (v : Word) (rest : List HostEvent),
    (base = 0x100 ∧ w < 64) ∨ (base = 0x200 ∧ w < 6) ∨ (base = 0x800 ∧ 4 * w < Config.dbufBytes) →
    s.status.busy = false → s.hostQueue = .write (base + 4 * w) 4 v :: rest →
    ∃ t, step s = .next t ∧ t = { Spec.taken rest s with key := t.key, nonce := t.nonce, dbuf := t.dbuf } ∧
      (∀ i < 4, bufferByte t (base + 4 * w + i) = some (BitVec.ofNat 8 (v.toNat / 2 ^ (8 * i)))) ∧
      ∀ a, ¬(base + 4 * w ≤ a ∧ a < base + 4 * w + 4) → bufferByte t a = bufferByte s a) ∧
  (∀ s : State, ∃ t, exec .salsa20Block s = .next t ∧
    ∀ k : Fin 16, locValue t (locate (0x800 + 4 * k.val)) = (salsaRounds (blockOperand s))[k] + (blockOperand s)[k])

/-- 20_memory.md rule R62: a reserved offset reads 0, busy or not; a write there is ignored while BUSY = 0 and only
sets WDROP while BUSY = 1. -/
def Obligations.ReservedOffsetsReadZeroAndIgnoreWrites : Prop :=
  ∀ (s : State) (off : Nat) (v : Word) (rest : List HostEvent),
    off % 4 = 0 →
    (0x02C ≤ off ∧ off < 0x100) ∨ (0x218 ≤ off ∧ off < 0x800) ∨ (0x800 + Config.dbufBytes ≤ off ∧ off < 0x1000) →
    (Spec.Arrives s (.read off 4) rest →
      step s = .next { Spec.taken rest s with readLog := ⟨off, 0⟩ :: s.readLog }) ∧
    (Spec.Arrives s (.write off 4 v) rest →
      step s = .next (if s.status.busy then
        { Spec.taken rest s with status := { s.status with wdrop := true } } else Spec.taken rest s))

/-! ## Words and bytes, the decoder and the merge unit -/

/-- 00_scope.md rule R9: `le32`, `bytes_le`, `words_le` and `ser`. -/
def Obligations.LittleEndianPacking : Prop :=
  (∀ b0 b1 b2 b3 : Byte,
    (le32 b0 b1 b2 b3).toNat = b0.toNat + 2 ^ 8 * b1.toNat + 2 ^ 16 * b2.toNat + 2 ^ 24 * b3.toNat ∧
    bytesLe (le32 b0 b1 b2 b3) = [b0, b1, b2, b3]) ∧
  (∀ w : Word, ∃ b0 b1 b2 b3 : Byte, bytesLe w = [b0, b1, b2, b3] ∧ le32 b0 b1 b2 b3 = w) ∧
  (∀ (B : List Byte) (n k : Nat), (wordsLe B n).length = n ∧
    (4 * n ≤ B.length → k < n → (wordsLe B n)[k]? =
      some (le32 (B.getD (4 * k) 0) (B.getD (4 * k + 1) 0) (B.getD (4 * k + 2) 0) (B.getD (4 * k + 3) 0)))) ∧
  (∀ W : List Word, (ser W).length = 4 * W.length ∧ wordsLe (ser W) W.length = W)

/-- 43_pos_xor.md rule R200: the position decoder is division and remainder by 64, and it feeds the Salsa20 counter
words 8 and 9, the ChaCha20 counter word 12 and the BLK0, BLK1 and OFFS views. -/
def Obligations.PositionDecoderDividesBy64 : Prop :=
  ∀ q : Pos, (blockIndex q).toNat = q.toNat / 64 ∧ (intraOffset q).toNat = q.toNat % 64 ∧
    blockIndex q = q.extractLsb' 6 64 ∧ intraOffset q = q.extractLsb' 0 6 ∧
    (∀ K N : List Byte,
      ksSalsa K N q = (salsaBlock (salsaState K N (blockIndex q))).getD (intraOffset q).toNat 0 ∧
      (salsaState K N (blockIndex q))[8].toNat = q.toNat / 64 % 2 ^ 32 ∧
      (salsaState K N (blockIndex q))[9].toNat = q.toNat / 64 / 2 ^ 32 ∧
      ∃ c : Word, ksChacha K N q = (chachaBlock (chachaState K N c)).getD (intraOffset q).toNat 0 ∧
        (chachaState K N c)[12] = c ∧ c.toNat = q.toNat / 64 % 2 ^ 32) ∧
    (∀ s : State, s.pos = q →
      (locValue s (locate 0x020)).toNat + 2 ^ 32 * (locValue s (locate 0x024)).toNat = (blockIndex q).toNat ∧
      (locValue s (locate 0x028)).toNat = (intraOffset q).toNat)

/-- The decoder is a bijection, and the next position is the next byte of the block or the start of the next block,
the block index wrapping modulo 2^64 (43_pos_xor.md rule R201, 41_salsa20.md rule R154). -/
def Obligations.PositionDecoderIsABijection : Prop :=
  (∀ q : Pos, q.toNat = 64 * (blockIndex q).toNat + (intraOffset q).toNat) ∧
  (∀ (b : BitVec 64) (o : BitVec 6), ∃ q : Pos, blockIndex q = b ∧ intraOffset q = o) ∧
  (∀ q : Pos, (intraOffset q).toNat < 63 →
    blockIndex (q + 1) = blockIndex q ∧ (intraOffset (q + 1)).toNat = (intraOffset q).toNat + 1) ∧
  (∀ q : Pos, (intraOffset q).toNat = 63 → blockIndex (q + 1) = blockIndex q + 1 ∧ intraOffset (q + 1) = 0)

/-- 43_pos_xor.md rule R204: merge is xor when KS = 0, and the keystream byte whatever the data when KS = 1. -/
def Obligations.MergeIsXorOrKeystream : Prop :=
  ∀ d k : Byte, merge d k false = d ^^^ k ∧ merge d k true = k ∧ merge (merge d k false) k false = d

/-! ## Round functions -/

/-- 41_salsa20.md rule R142: the Salsa20 quarter-round, each line on the values the line before wrote. -/
def Obligations.SalsaQuarterRound : Prop :=
  ∀ (a b c d : Fin 16) (x : Block), [a, b, c, d].Nodup →
    (qrSalsa a b c d x)[b] = x[b] ^^^ (x[a] + x[d]).rotateLeft 7 ∧
    (qrSalsa a b c d x)[c] = x[c] ^^^ ((qrSalsa a b c d x)[b] + x[a]).rotateLeft 9 ∧
    (qrSalsa a b c d x)[d] = x[d] ^^^ ((qrSalsa a b c d x)[c] + (qrSalsa a b c d x)[b]).rotateLeft 13 ∧
    (qrSalsa a b c d x)[a] = x[a] ^^^ ((qrSalsa a b c d x)[d] + (qrSalsa a b c d x)[c]).rotateLeft 18 ∧
    ∀ k : Fin 16, k ∉ [a, b, c, d] → (qrSalsa a b c d x)[k] = x[k]

/-- 42_chacha20.md rule R171: the ChaCha20 quarter-round. -/
def Obligations.ChachaQuarterRound : Prop :=
  ∀ (a b c d : Fin 16) (x : Block), [a, b, c, d].Nodup →
    ∀ a1 b1 c1 d1 a2 b2 c2 d2 : Word,
      a1 = x[a] + x[b] → d1 = (x[d] ^^^ a1).rotateLeft 16 → c1 = x[c] + d1 → b1 = (x[b] ^^^ c1).rotateLeft 12 →
      a2 = a1 + b1 → d2 = (d1 ^^^ a2).rotateLeft 8 → c2 = c1 + d2 → b2 = (b1 ^^^ c2).rotateLeft 7 →
      (qrChacha a b c d x)[a] = a2 ∧ (qrChacha a b c d x)[b] = b2 ∧ (qrChacha a b c d x)[c] = c2 ∧
      (qrChacha a b c d x)[d] = d2 ∧ ∀ k : Fin 16, k ∉ [a, b, c, d] → (qrChacha a b c d x)[k] = x[k]

/-- The four quarter-rounds of each round are those the spec lists, and their order does not matter (41_salsa20.md
rules R143, R144, R157; 42_chacha20.md rules R172, R184). The Salsa20 indices are general knowledge in the spec's own
words (rules R143 and R144). -/
def Obligations.QuarterRoundOrderDoesNotMatter : Prop :=
  ∀ (l : List (Fin 16 × Fin 16 × Fin 16 × Fin 16)) (x : Block),
    (l.Perm [(0, 4, 8, 12), (5, 9, 13, 1), (10, 14, 2, 6), (15, 3, 7, 11)] →
      Spec.quarterRounds qrSalsa l x = salsaColumnRound x) ∧
    (l.Perm [(0, 1, 2, 3), (5, 6, 7, 4), (10, 11, 8, 9), (15, 12, 13, 14)] →
      Spec.quarterRounds qrSalsa l x = salsaRowRound x) ∧
    (l.Perm [(0, 4, 8, 12), (1, 5, 9, 13), (2, 6, 10, 14), (3, 7, 11, 15)] →
      Spec.quarterRounds qrChacha l x = chachaColumnRound x) ∧
    (l.Perm [(0, 5, 10, 15), (1, 6, 11, 12), (2, 7, 8, 13), (3, 4, 9, 14)] →
      Spec.quarterRounds qrChacha l x = chachaDiagonalRound x)

/-- The input states: constants, key, nonce and counter words in their places (41_salsa20.md rules R140, R141, R147;
42_chacha20.md rules R170, R175). The byte order and the key split are general knowledge in the spec's own words. -/
def Obligations.CipherStateLayouts : Prop :=
  (ser [c0, c1, c2, c3] = [0x65, 0x78, 0x70, 0x61, 0x6e, 0x64, 0x20, 0x33, 0x32, 0x2d, 0x62, 0x79, 0x74, 0x65, 0x20,
    0x6b]) ∧
  (∀ (K N : List Byte) (ctr : BitVec 64), (salsaState K N ctr).toList =
    [c0] ++ (wordsLe K 8).take 4 ++ [c1] ++ wordsLe N 2 ++ [ctr.extractLsb' 0 32, ctr.extractLsb' 32 32] ++ [c2] ++
      (wordsLe K 8).drop 4 ++ [c3]) ∧
  (∀ K N16 : List Byte, (hsalsaState K N16).toList =
    [c0] ++ (wordsLe K 8).take 4 ++ [c1] ++ wordsLe N16 4 ++ [c2] ++ (wordsLe K 8).drop 4 ++ [c3]) ∧
  (∀ (K N : List Byte) (ctr : Word), (chachaState K N ctr).toList =
    [c0, c1, c2, c3] ++ wordsLe K 8 ++ [ctr] ++ wordsLe N 3) ∧
  (∀ K N16 : List Byte, (hchachaState K N16).toList = [c0, c1, c2, c3] ++ wordsLe K 8 ++ wordsLe N16 4)

/-- The round transforms are ten double-rounds, each a column round and then a row or diagonal round (41_salsa20.md rule
R145, 42_chacha20.md rule R173). The block functions add the input state back and serialise; the H-functions do not add
it and keep eight words (41_salsa20.md rules R146, R148; 42_chacha20.md rules R174, R176; the subkey's serialisation is
general knowledge in the spec's own words). -/
def Obligations.BlockAndSubkeyOutputWords : Prop :=
  (∀ s : Block, salsaRounds s = Nat.iterate (fun x => salsaRowRound (salsaColumnRound x)) 10 s) ∧
  (∀ s : Block, chachaRounds s = Nat.iterate (fun x => chachaDiagonalRound (chachaColumnRound x)) 10 s) ∧
  (∀ s : Block, (salsaBlock s).length = 64 ∧ ∀ k : Fin 16, leWord (salsaBlock s) k = (salsaRounds s)[k] + s[k]) ∧
  (∀ s : Block, (chachaBlock s).length = 64 ∧ ∀ k : Fin 16, leWord (chachaBlock s) k = (chachaRounds s)[k] + s[k]) ∧
  (∀ K N : List Byte, wordsLe (hsalsa20 K N) 8 =
    ([0, 5, 10, 15, 6, 7, 8, 9] : List (Fin 16)).map fun k => (salsaRounds (hsalsaState K N))[k]) ∧
  (∀ K N : List Byte, wordsLe (hchacha20 K N) 8 =
    ([0, 1, 2, 3, 12, 13, 14, 15] : List (Fin 16)).map fun k => (chachaRounds (hchachaState K N))[k])

/-! ## RC4 -/

/-- KSA is the loop of 40_rc4.md rule R120 over natural numbers; its initial `j = 0` is general knowledge in the spec's
own words. Its result is a permutation of 0..255. -/
def Obligations.KsaRunsThePublishedLoop : Prop :=
  ∀ K : List Byte, 1 ≤ K.length → K.length ≤ 256 →
    (∀ k < 256, Spec.permNat (ksa K) k = (Spec.ksaLoop K 256).1 k) ∧ IsPermutation (ksa K)

/-- 40_rc4.md rule R121: one PRGA step over natural numbers; `S[i]` and `S[j]` are read after the swap, and when i = j
the swap changes nothing. -/
def Obligations.PrgaStepFollowsTheRule : Prop :=
  ∀ (r : Rc4) (i j : Nat) (S : Nat → Nat),
    i = (r.i.toNat + 1) % 256 → j = (r.j.toNat + Spec.permNat r.S i) % 256 →
    S = Spec.swapAt (Spec.permNat r.S) i j →
    (prgaStep r).2.i.toNat = i ∧ (prgaStep r).2.j.toNat = j ∧
    (∀ k < 256, Spec.permNat (prgaStep r).2.S k = S k) ∧
    (prgaStep r).1.toNat = S ((S i + S j) % 256) ∧
    (i = j → (prgaStep r).2.S = r.S ∧ (prgaStep r).1.toNat = Spec.permNat r.S (2 * Spec.permNat r.S i % 256))

/-- RC4_KSA completes for every key length from 1 to 256, with the key schedule of KEY[0..KEYLEN-1], both indices 0 and
RC4V = 1, and nothing else changed (40_rc4.md rule R124; the indices' 0 is general knowledge in the spec's own words). -/
def Obligations.Rc4KsaSchedulesTheKey : Prop :=
  ∀ s : State, 1 ≤ s.keyLen.toNat → s.keyLen.toNat ≤ 256 →
    exec .rc4Ksa s = .next { s with
      rc4 := ⟨ksa (s.key.toList.take s.keyLen.toNat), 0, 0⟩
      status := { Spec.completed s.status with rc4v := true } }

/-- 40_rc4.md rule R122: what RC4_KSA schedules depends on its key alone. -/
def Obligations.KsaDependsOnTheKeyAlone : Prop :=
  ∀ s₁ s₂ t₁ t₂ : State, s₁.keyLen = s₂.keyLen →
    (∀ k < s₁.keyLen.toNat, s₁.key[k]? = s₂.key[k]?) → 1 ≤ s₁.keyLen.toNat → s₁.keyLen.toNat ≤ 256 →
    exec .rc4Ksa s₁ = .next t₁ → exec .rc4Ksa s₂ = .next t₂ → t₁.rc4 = t₂.rc4

/-- A key longer than 256 bytes gives the permutation of its first 256 bytes (40_rc4.md rule R123). -/
def Obligations.LongKeyActsAsItsFirst256Bytes : Prop :=
  ∀ K : List Byte, 256 < K.length → ksa K = ksa (K.take 256)

/-- RC4_PRGA completes once a key is scheduled and LEN fits: DBUF and the RC4 state are those of the loop of 40_rc4.md
rule R125, and nothing else changes but STATUS. -/
def Obligations.Rc4PrgaRunsTheLoop : Prop :=
  ∀ (ks : Bool) (s : State), s.len.toNat ≤ Config.dbufBytes → s.status.rc4v = true →
    exec (.rc4Prga ks) s = .next { s with
      dbuf := (Spec.prgaLoop ks s.dbuf s.rc4 s.len.toNat).1
      rc4 := (Spec.prgaLoop ks s.dbuf s.rc4 s.len.toNat).2
      status := Spec.completed s.status }

/-- Whatever the split into RC4_PRGA commands, byte `m` of them all is the byte of PRGA step `m + 1`, merged with its data
byte under its command's KS, and the RC4 state has advanced one step for each byte (40_rc4.md rule R126). -/
def Obligations.Rc4KeystreamIgnoresChunking : Prop :=
  ∀ (s : State) (l : List Spec.Chunk), s.status.rc4v = true → (∀ c ∈ l, c.len.toNat ≤ Config.dbufBytes) →
    (∀ m : Nat, (Spec.prgaCommands l s).1[m]? =
      (Spec.chunkData l)[m]?.map fun d => merge d.1 (prgaStep (Spec.prgaSteps m s.rc4)).1 d.2) ∧
    (Spec.prgaCommands l s).2.rc4 = Spec.prgaSteps (Spec.chunkData l).length s.rc4 ∧
    (l ≠ [] → (Spec.prgaCommands l s).2.status.done = true)

/-- RC4 commands neither read POS, NONCE or NONCELEN nor write POS (40_rc4.md rule R128): run from a state with other
values there, they do the same and leave those values. -/
def Obligations.Rc4IgnoresPositionAndNonce : Prop :=
  ∀ (ks : Bool) (i : Instr) (s t : State) (p : Pos) (n : Vector Byte 24) (l : BitVec 5),
    i = .rc4Ksa ∨ i = .rc4Prga ks → exec i s = .next t →
    exec i { s with pos := p, nonce := n, nonceLen := l } = .next { t with pos := p, nonce := n, nonceLen := l }

/-! ## Salsa20 and ChaCha20 commands -/

/-- SALSA20_STREAM completes for KEYLEN = 32, NONCELEN 8 or 24 and a LEN that fits: DBUF is the loop of 41_salsa20.md
rule R151 over positions (POS + t) mod 2^70, POS moves on modulo 2^70, and nothing else changes but STATUS. -/
def Obligations.Salsa20StreamRunsTheLoop : Prop :=
  ∀ (ks : Bool) (s : State), s.keyLen.toNat = 32 → (s.nonceLen.toNat = 8 ∨ s.nonceLen.toNat = 24) →
    s.len.toNat ≤ Config.dbufBytes →
    exec (.salsa20Stream ks) s = .next { s with
      dbuf := Spec.streamLoop ks (fun t => Spec.salsaByteAt (Spec.salsaKeyNonce s).1 (Spec.salsaKeyNonce s).2
        ((s.pos.toNat + t) % 2 ^ 70)) s.dbuf s.len.toNat
      pos := BitVec.ofNat 70 ((s.pos.toNat + s.len.toNat) % 2 ^ 70)
      status := Spec.completed s.status }

/-- CHACHA20_STREAM completes for KEYLEN = 32, NONCELEN 12 or 24, a LEN that fits, and a range that is empty or ends
below position 2^38: DBUF is the loop of 42_chacha20.md rule R179, no position wraps, POS moves on, and nothing else
changes but STATUS. -/
def Obligations.Chacha20StreamRunsTheLoop : Prop :=
  ∀ (ks : Bool) (s : State), s.keyLen.toNat = 32 → (s.nonceLen.toNat = 12 ∨ s.nonceLen.toNat = 24) →
    s.len.toNat ≤ Config.dbufBytes → (s.len.toNat = 0 ∨ s.pos.toNat + s.len.toNat ≤ 2 ^ 38) →
    exec (.chacha20Stream ks) s = .next { s with
      dbuf := Spec.streamLoop ks (fun t => Spec.chachaByteAt (Spec.chachaKeyNonce s).1 (Spec.chachaKeyNonce s).2
        (s.pos.toNat + t)) s.dbuf s.len.toNat
      pos := BitVec.ofNat 70 (s.pos.toNat + s.len.toNat)
      status := Spec.completed s.status } ∧
    s.pos.toNat + s.len.toNat < 2 ^ 70 ∧ (∀ t < s.len.toNat, (s.pos.toNat + t) / 64 < 2 ^ 32)

/-- HSALSA20 and HCHACHA20 complete for KEYLEN = 32 and NONCELEN = 16: DBUF[0..31] is the subkey, DBUF from 32 on and
all else but STATUS is unchanged (41_salsa20.md rule R152, 42_chacha20.md rule R180). -/
def Obligations.SubkeyCommandsWriteTheSubkey : Prop :=
  ∀ s : State, s.keyLen.toNat = 32 → s.nonceLen.toNat = 16 →
    ∃ d₁ d₂ : Vector Byte Config.dbufBytes,
      exec .hsalsa20 s = .next { s with dbuf := d₁, status := Spec.completed s.status } ∧
      exec .hchacha20 s = .next { s with dbuf := d₂, status := Spec.completed s.status } ∧
      d₁.toList.take 32 = hsalsa20 (s.key.toList.take 32) (s.nonce.toList.take 16) ∧
      d₂.toList.take 32 = hchacha20 (s.key.toList.take 32) (s.nonce.toList.take 16) ∧
      d₁.toList.drop 32 = s.dbuf.toList.drop 32 ∧ d₂.toList.drop 32 = s.dbuf.toList.drop 32

/-- SALSA20_BLOCK and CHACHA20_BLOCK complete in every state: DBUF[0..63] is the block function of the 16 words it
held, DBUF from 64 on and all else but STATUS is unchanged (41_salsa20.md rule R153, 42_chacha20.md rule R181). -/
def Obligations.BlockCommandsApplyTheBlockFunction : Prop :=
  ∀ (s : State) (x : Block), x.toList = wordsLe (s.dbuf.toList.take 64) 16 →
    ∃ d₁ d₂ : Vector Byte Config.dbufBytes,
      exec .salsa20Block s = .next { s with dbuf := d₁, status := Spec.completed s.status } ∧
      exec .chacha20Block s = .next { s with dbuf := d₂, status := Spec.completed s.status } ∧
      d₁.toList.take 64 = salsaBlock x ∧ d₂.toList.take 64 = chachaBlock x ∧
      d₁.toList.drop 64 = s.dbuf.toList.drop 64 ∧ d₂.toList.drop 64 = s.dbuf.toList.drop 64

/-- The source's core invariant: a keystream byte is a function of key, nonce and position alone (41_salsa20.md rule
R155, 42_chacha20.md rule R185, 43_pos_xor.md rule R207). Two completed keystream-only commands, from any two states
that agree on the key and the nonce, put the same byte where their ranges meet. -/
def Obligations.KeystreamByteDependsOnKeyNoncePosition : Prop :=
  ∀ (i : Instr) (s₁ s₂ t₁ t₂ : State) (k₁ k₂ : Nat),
    i = .salsa20Stream true ∨ i = .chacha20Stream true →
    exec i s₁ = .next t₁ → exec i s₂ = .next t₂ → t₁.status.err = false → t₂.status.err = false →
    s₁.key.toList.take 32 = s₂.key.toList.take 32 → s₁.nonceLen = s₂.nonceLen →
    s₁.nonce.toList.take s₁.nonceLen.toNat = s₂.nonce.toList.take s₂.nonceLen.toNat →
    k₁ < s₁.len.toNat → k₂ < s₂.len.toNat →
    (s₁.pos.toNat + k₁) % 2 ^ 70 = (s₂.pos.toNat + k₂) % 2 ^ 70 → t₁.dbuf[k₁]? = t₂.dbuf[k₂]?

/-- Chunks of a stream continue where the last ended (43_pos_xor.md rules R203 and R207; 41_salsa20.md rule R156,
42_chacha20.md rule R183): two completed commands of lengths a and b give the bytes and the POS of one of length a + b,
whatever data is loaded for each. -/
def Obligations.StreamChunksContinueThePosition : Prop :=
  ∀ (i : Instr) (ks : Bool) (s t t₁ t₂ : State) (a b : Nat) (d : Vector Byte Config.dbufBytes),
    i = .salsa20Stream ks ∨ i = .chacha20Stream ks → a + b ≤ Config.dbufBytes → a + b < 65536 →
    (∀ k < b, d[k]? = s.dbuf[a + k]?) →
    exec i { s with len := BitVec.ofNat 16 (a + b) } = .next t → t.status.err = false →
    exec i { s with len := BitVec.ofNat 16 a } = .next t₁ →
    exec i { t₁ with len := BitVec.ofNat 16 b, dbuf := d } = .next t₂ →
    t₁.status.err = false ∧ t₂.status.err = false ∧ t₂.pos = t.pos ∧
    (∀ k < a, t.dbuf[k]? = t₁.dbuf[k]?) ∧ (∀ k < b, t.dbuf[a + k]? = t₂.dbuf[k]?)

/-- Involution (43_pos_xor.md rule R206): a second KS = 0 command over the same range, with POS rewritten (Salsa20,
ChaCha20) or after a fresh RC4_KSA before each (RC4), restores DBUF. -/
def Obligations.SecondPassRestoresTheData : Prop :=
  (∀ (i : Instr) (s t u : State), i = .salsa20Stream false ∨ i = .chacha20Stream false →
    exec i s = .next t → t.status.err = false → exec i { t with pos := s.pos } = .next u → u.dbuf = s.dbuf) ∧
  (∀ s t₁ t₂ t₃ t₄ : State, exec .rc4Ksa s = .next t₁ → t₁.status.err = false →
    exec (.rc4Prga false) t₁ = .next t₂ → t₂.status.err = false →
    exec .rc4Ksa t₂ = .next t₃ → exec (.rc4Prga false) t₃ = .next t₄ → t₄.dbuf = s.dbuf)

/-- The 24-byte-nonce streams equal the host's composition: the subkey the H-command leaves in DBUF[0..31] copied to
KEY, the sub-nonce to NONCE, and the direct command (41_salsa20.md rules R149, R152; 42_chacha20.md rules R177, R180). -/
def Obligations.ExtendedNonceEqualsHostComposition : Prop :=
  ∀ (ks : Bool) (s : State), s.keyLen.toNat = 32 → s.nonceLen.toNat = 24 → s.len.toNat ≤ Config.dbufBytes →
    (∃ h t u : State, exec .hsalsa20 { s with nonceLen := 16 } = .next h ∧ h.status.done = true ∧
      exec (.salsa20Stream ks) s = .next t ∧ t.status.done = true ∧
      exec (.salsa20Stream ks) { s with
        key := storeBytes s.key (h.dbuf.toList.take 32)
        nonce := storeBytes s.nonce (s.nonce.toList.drop 16)
        nonceLen := 8 } = .next u ∧ u.status.done = true ∧ u.dbuf = t.dbuf ∧ u.pos = t.pos) ∧
    (s.len.toNat = 0 ∨ s.pos.toNat + s.len.toNat ≤ 2 ^ 38 →
      ∃ h t u : State, exec .hchacha20 { s with nonceLen := 16 } = .next h ∧ h.status.done = true ∧
        exec (.chacha20Stream ks) s = .next t ∧ t.status.done = true ∧
        exec (.chacha20Stream ks) { s with
          key := storeBytes s.key (h.dbuf.toList.take 32)
          nonce := storeBytes s.nonce ([0, 0, 0, 0] ++ s.nonce.toList.drop 16)
          nonceLen := 12 } = .next u ∧ u.status.done = true ∧ u.dbuf = t.dbuf ∧ u.pos = t.pos)

/-! ## Errors and frames -/

/-- 60_exceptions.md rule R228: a due command reports the first check of the table that fails, ILLEGAL first, and
nothing but STATUS changes; if none fails it completes. -/
def Obligations.FirstFailingCheckIsReported : Prop :=
  ∀ s : State, Spec.CommandDue s →
    (∀ e, decode s.latchedCmd = .error e → step s = .next (Spec.rejected 1 s)) ∧
    (∀ i, decode s.latchedCmd = .ok i → Spec.firstFailingCode s i ≠ 0 →
      step s = .next (Spec.rejected (Spec.firstFailingCode s i) s)) ∧
    (∀ i, decode s.latchedCmd = .ok i → Spec.firstFailingCode s i = 0 →
      ∃ t, step s = .next t ∧
        t.status = { Spec.completed s.status with rc4v := s.status.rc4v || i == .rc4Ksa })

/-- 60_exceptions.md rule R229: a command that ends with ERR = 1 has changed nothing but STATUS: BUSY and DONE are 0,
ERR is 1, ERRCODE is its code; RC4V and WDROP keep their value. -/
def Obligations.RejectedCommandChangesOnlyStatus : Prop :=
  ∀ (s t : State), Spec.CommandDue s → step s = .next t → t.status.err = true →
    t = { s with status := ⟨false, false, true, s.status.rc4v, s.status.wdrop, t.status.errcode⟩ } ∧
      1 ≤ t.status.errcode.toNat ∧ t.status.errcode.toNat ≤ 6

/-- The frame of the commands (10_state.md rule R46, 20_memory.md rule R69): no command writes KEY, NONCE, the length
registers, the latched word, WDROP or anything of the host's; RC4_KSA and RC4_PRGA alone write the RC4 state; a
completed SALSA20_STREAM or CHACHA20_STREAM alone writes POS; RC4_KSA alone writes RC4V; and every byte of the buffers
outside the first `dbufWritten` bytes of DBUF reads as before. -/
def Obligations.CommandsWriteOnlyTheirOwnState : Prop :=
  ∀ (i : Instr) (s t : State), exec i s = .next t →
    t.key = s.key ∧ t.nonce = s.nonce ∧ t.keyLen = s.keyLen ∧ t.nonceLen = s.nonceLen ∧ t.len = s.len ∧
    t.latchedCmd = s.latchedCmd ∧ t.hostQueue = s.hostQueue ∧ t.readLog = s.readLog ∧ t.busyLeft = s.busyLeft ∧
    t.accepted = s.accepted ∧ t.draws = s.draws ∧ t.resets = s.resets ∧
    t.status.wdrop = s.status.wdrop ∧ t.status.busy = false ∧
    (i ≠ .rc4Ksa → t.status.rc4v = s.status.rc4v) ∧
    ((∀ ks, i ≠ .rc4Prga ks) → i ≠ .rc4Ksa → t.rc4 = s.rc4) ∧
    ((∀ ks, i ≠ .salsa20Stream ks ∧ i ≠ .chacha20Stream ks) → t.pos = s.pos) ∧
    (∀ off, ¬(0x800 ≤ off ∧ off < 0x800 + Spec.dbufWritten s i) → bufferByte t off = bufferByte s off)

/-! ## Whole-machine rules -/

/-- Every step keeps the invariant: STATUS stays consistent (DONE and ERR never both 1, ERRCODE 0 exactly without ERR
and never above 6), and while RC4V = 1 `S` is a permutation of 0..255 (10_state.md rules R24, R36; 60_exceptions.md
rule R221). -/
def Obligations.StepKeepsTheInvariant : Prop :=
  ∀ s t : State, s.Inv → step s = .next t → t.Inv

/-- The invariant holds at reset, and after an invariant state whatever the outside world issues (10_state.md rule
R43). -/
def Obligations.ResetMeetsTheInvariant : Prop :=
  State.reset.Inv ∧ ∀ (s : State) (events : List HostEvent), s.Inv → (issue events s).Inv

/-- A state whose waiting accesses are all inside the contract has a next state; so every reachable state runs safely: the
invariant holds, and as long as the host keeps to the contract there is a next state (60_exceptions.md rules R220, R231).
That the host is a list in State, to which the outside world adds, is the model's choice (log entry 7), and so is the
idle step (log entry 11). -/
def Obligations.ReachableStatesRunSafely : Prop :=
  (∀ s : State, s.Contracted → ∃ t, step s = .next t) ∧ ∀ s : State, Reachable s → SafeRun s

/-- 10_state.md rule R22: an accepted command sets BUSY, and nothing else does; BUSY becomes 0 only at the end of a
command's step or by reset, and does become 0 at the end of every command's step, rejected or completed. -/
def Obligations.BusyChangesOnlyAsRuled : Prop :=
  ∀ s t : State, step s = .next t →
    (s.status.busy = false → t.status.busy = true →
      ∃ (v : Word) (rest : List HostEvent), s.hostQueue = .write 0x000 4 v :: rest ∧ t.latchedCmd = v) ∧
    (s.status.busy = false → (∃ (v : Word) (rest : List HostEvent), s.hostQueue = .write 0x000 4 v :: rest) →
      t.status.busy = true) ∧
    (s.status.busy = true → t.status.busy = false → Spec.CommandDue s ∨ ∃ rest, s.hostQueue = .reset :: rest) ∧
    ((∃ rest, s.hostQueue = .reset :: rest) → t.status.busy = false) ∧
    (Spec.CommandDue s → t.status.busy = false)

/-- 10_state.md rule R25: RC4V is 0 at reset; it becomes 1 only by a completed RC4_KSA, which does set it, and becomes 0
only by reset; while it is 0, RC4_PRGA is rejected, with NOSTATE unless the LEN check, which comes first, fails. -/
def Obligations.Rc4vIsSetByKsaAlone : Prop :=
  State.reset.status.rc4v = false ∧
  (∀ s t : State, step s = .next t →
    (s.status.rc4v = false → t.status.rc4v = true →
      Spec.CommandDue s ∧ decode s.latchedCmd = .ok .rc4Ksa ∧ t.status.done = true) ∧
    (s.status.rc4v = true → t.status.rc4v = false → ∃ rest, s.hostQueue = .reset :: rest) ∧
    (Spec.CommandDue s → decode s.latchedCmd = .ok .rc4Ksa → t.status.done = true → t.status.rc4v = true)) ∧
  (∀ (s : State) (ks : Bool), s.status.rc4v = false →
    exec (.rc4Prga ks) s = .next (Spec.rejected (if s.len.toNat ≤ Config.dbufBytes then 5 else 4) s))

/-- 10_state.md rule R31: apart from reset, only a host write to POS0, POS1 or POS2 while BUSY = 0 and the end of a
completed SALSA20_STREAM or CHACHA20_STREAM change POS. -/
def Obligations.PosChangesOnlyAsRuled : Prop :=
  ∀ s t : State, step s = .next t → (∀ rest, s.hostQueue ≠ .reset :: rest) → t.pos ≠ s.pos →
    (s.status.busy = false ∧ ∃ (off : Nat) (v : Word) (rest : List HostEvent),
      s.hostQueue = .write off 4 v :: rest ∧ off ∈ [0x014, 0x018, 0x01C]) ∨
    (Spec.CommandDue s ∧ t.status.done = true ∧
      ∃ ks, decode s.latchedCmd = .ok (.salsa20Stream ks) ∨ decode s.latchedCmd = .ok (.chacha20Stream ks))

/-- A byte of KEY, NONCE or DBUF keeps its value at every step but three: reset; a host write to its word while
BUSY = 0; and, for the bytes of DBUF that rule R35 lists, a completed command (10_state.md rules R33 to R35, R45). -/
def Obligations.BufferBytesChangeOnlyAsRuled : Prop :=
  ∀ (s t : State) (off : Nat), step s = .next t → bufferByte t off ≠ bufferByte s off →
    (∃ rest, s.hostQueue = .reset :: rest) ∨
    (s.status.busy = false ∧ ∃ (o : Nat) (v : Word) (rest : List HostEvent),
      s.hostQueue = .write o 4 v :: rest ∧ o % 4 = 0 ∧ o ≤ off ∧ off < o + 4) ∨
    (Spec.CommandDue s ∧ t.status.done = true ∧
      ∃ i, decode s.latchedCmd = .ok i ∧ 0x800 ≤ off ∧ off < 0x800 + Spec.dbufWritten s i)

/-- The latched word cannot change while BUSY = 1: only an accepted command and reset change it (10_state.md rule
R40, 20_memory.md rule R78). -/
def Obligations.LatchedCommandIsFixedWhileBusy : Prop :=
  ∀ s t : State, step s = .next t → t.latchedCmd ≠ s.latchedCmd →
    (∃ rest, s.hostQueue = .reset :: rest) ∨
    (s.status.busy = false ∧ ∃ rest, s.hostQueue = .write 0x000 4 t.latchedCmd :: rest)

/-- ERR and ERRCODE stay until the next accepted command clears them, or reset; only the end of a command's step sets
them, and no bus access does (60_exceptions.md rules R232, R233). -/
def Obligations.ErrorStaysUntilTheNextCommand : Prop :=
  ∀ s t : State, step s = .next t → (t.status.err ≠ s.status.err ∨ t.status.errcode ≠ s.status.errcode) →
    Spec.CommandDue s ∨ (∃ rest, s.hostQueue = .reset :: rest) ∨
    (s.status.busy = false ∧ (∃ (v : Word) (rest : List HostEvent), s.hostQueue = .write 0x000 4 v :: rest) ∧
      t.status.err = false ∧ t.status.errcode = 0)

/-! ## The host's assembly syntax -/

/-- 30_encoding.md rule R99: the offsets of the register symbols, and what stands there in the window. -/
def Obligations.RegisterSymbolOffsets : Prop :=
  ([.CMD, .STATUS, .KEYLEN, .NONCELEN, .LEN, .POS0, .POS1, .POS2, .BLK0, .BLK1, .OFFS, .KEY, .NONCE, .DBUF] :
      List HostAsm.Sym).map HostAsm.symOffset =
    [0x000, 0x004, 0x008, 0x00C, 0x010, 0x014, 0x018, 0x01C, 0x020, 0x024, 0x028, 0x100, 0x200, 0x800] ∧
  ([.CMD, .STATUS, .KEYLEN, .NONCELEN, .LEN, .POS0, .POS1, .POS2, .BLK0, .BLK1, .OFFS, .KEY, .NONCE, .DBUF] :
      List HostAsm.Sym).map (fun r => locate (HostAsm.symOffset r)) =
    [.cmd, .status, .keyLen, .nonceLen, .len, .pos0, .pos1, .pos2, .blk0, .blk1, .offs, .key 0, .nonce 0, .dbuf 0]

/-- The pseudo-instructions `setkey`, `setnonce`, `load`, `setlen` and `setpos`, run from an idle CORE, leave the bytes and
the lengths they name, 0 in the bytes that fill the last word, and everything else as it was (30_encoding.md rule R100).
That the host's accesses are a list in State, and a count of them, is the model's choice (log entries 5 and 7). -/
def Obligations.PseudoInstructionsSetTheOperands : Prop :=
  ∀ s : State, s.status.busy = false → s.hostQueue = [] →
    (∀ b : List Byte, b.length ≤ 256 → ∃ t, core.run (HostAsm.setkey b).length (issue (HostAsm.setkey b) s) = .next t ∧
      t = { s with key := t.key, keyLen := t.keyLen, busyLeft := t.busyLeft } ∧ t.keyLen.toNat = b.length ∧
      (∀ k < 256, t.key[k]? = Spec.loadedByte b s.key k)) ∧
    (∀ b : List Byte, b.length ≤ 24 →
      ∃ t, core.run (HostAsm.setnonce b).length (issue (HostAsm.setnonce b) s) = .next t ∧
      t = { s with nonce := t.nonce, nonceLen := t.nonceLen, busyLeft := t.busyLeft } ∧ t.nonceLen.toNat = b.length ∧
      (∀ k < 24, t.nonce[k]? = Spec.loadedByte b s.nonce k)) ∧
    (∀ b : List Byte, b.length ≤ Config.dbufBytes →
      ∃ t, core.run (HostAsm.load b).length (issue (HostAsm.load b) s) = .next t ∧
      t = { s with dbuf := t.dbuf, busyLeft := t.busyLeft } ∧
      (∀ k < Config.dbufBytes, t.dbuf[k]? = Spec.loadedByte b s.dbuf k)) ∧
    (∀ n : Word, core.run 1 (issue (HostAsm.setlen n) s) =
      .next { s with len := BitVec.ofNat 16 (n.toNat % 65536), busyLeft := s.busyLeft - 1 }) ∧
    (∀ p : Pos, core.run 3 (issue (HostAsm.setpos p) s) = .next { s with pos := p, busyLeft := s.busyLeft - 3 })

/-- A `run` of a command from an idle CORE ends with the command's own step and a STATUS read: what `exec` answers from
the accepted state, and BUSY = 0 read back (30_encoding.md rule R100, 20_memory.md rule R72). That the whole `wait` loop is
one event (log entry 7), and that a host that only waits sees the command's step next (log entry 5), are the model's
choices; with them the command's step is the second. -/
def Obligations.RunEndsWithTheCommandsEffect : Prop :=
  ∀ (i : Instr) (s : State), s.status.busy = false → s.hostQueue = [] →
    ∃ a t : State, core.run 1 (issue (HostAsm.run i) s) = .next a ∧ a.latchedCmd = encode i ∧ exec i a = .next t ∧
      core.run 3 (issue (HostAsm.run i) s) = .next { t with
        hostQueue := []
        busyLeft := t.busyLeft - 1
        readLog := ⟨0x004, t.status.word⟩ :: t.readLog } ∧
      t.status.word.getLsbD 0 = false
end

