-- ==== Sys2Proof/Laws/Flags.lean ====
section
/-! SUPPORT. The checks: when each passes, and the first error of a list. -/

namespace Sys2Proof.Machine

@[simp] theorem firstError_nil : firstError [] = none := rfl

@[simp] theorem firstError_cons_none (rest : List (Option CmdError)) : firstError (none :: rest) = firstError rest := rfl

@[simp] theorem firstError_cons_some (e : CmdError) (rest : List (Option CmdError)) :
    firstError (some e :: rest) = some e := rfl

/-- No error is reported exactly when every check passes. -/
theorem firstError_eq_none (l : List (Option CmdError)) : firstError l = none ↔ ∀ c ∈ l, c = none := by
  induction l with
  | nil => simp
  | cons c l ih => cases c <;> simp [ih]

theorem checkRc4Key_none {s : State} : checkRc4Key s = none ↔ 1 ≤ s.keyLen.toNat ∧ s.keyLen.toNat ≤ 256 := by
  simp [checkRc4Key]

theorem checkCipherKey_none {s : State} : checkCipherKey s = none ↔ s.keyLen.toNat = 32 := by simp [checkCipherKey]

theorem checkNonce_none {l : List Nat} {s : State} : checkNonce l s = none ↔ s.nonceLen.toNat ∈ l := by
  simp [checkNonce]

theorem checkLen_none {s : State} : checkLen s = none ↔ s.len.toNat ≤ Config.dbufBytes := by simp [checkLen]

theorem checkRc4State_none {s : State} : checkRc4State s = none ↔ s.status.rc4v = true := by simp [checkRc4State]

theorem checkRange_none {s : State} :
    checkRange s = none ↔ (s.len.toNat = 0 ∨ s.pos.toNat + s.len.toNat ≤ Config.chachaLimit) := by
  simp only [checkRange]
  split <;> simp <;> omega

/-- The codes are those of 60_exceptions.md rule R221: from 1 to 6. -/
theorem CmdError.code_range (e : CmdError) : 1 ≤ e.code.toNat ∧ e.code.toNat ≤ 6 := by cases e <;> decide

end Sys2Proof.Machine
end

