-- ==== Sys2Proof/Laws/Config.lean ====
section
/-! SUPPORT. All that the model uses of `DBUF_BYTES`: it is one of the sizes 00_scope.md rule R6 allows. -/

namespace Sys2Proof.Config

theorem dbufBytes_ge : 64 ≤ dbufBytes := by decide

theorem dbufBytes_le : dbufBytes ≤ 2048 := by decide

theorem dbufBytes_dvd : dbufBytes % 4 = 0 := by decide

end Sys2Proof.Config
end

