-- ==== Sys2Proof/Laws/Operands.lean ====
section
/-! SUPPORT. The small lemmas of the byte, buffer and merge operations. -/

namespace Sys2Proof.Machine

@[simp] theorem tabulate_getElem? {α : Type} (n : Nat) (f : Nat → α) (k : Nat) :
    (tabulate n f)[k]? = if k < n then some (f k) else none := by
  simp only [tabulate, Vector.getElem?_mk, List.getElem?_toArray, List.getElem?_map]
  split <;> simp_all

@[simp] theorem tabulate_getElem {α : Type} (n : Nat) (f : Nat → α) (k : Nat) (h : k < n) : (tabulate n f)[k] = f k := by
  simp [tabulate]

@[simp] theorem tabulate_toList {α : Type} (n : Nat) (f : Nat → α) : (tabulate n f).toList = (List.range n).map f := by
  simp [tabulate]

/-! ## Words and bytes -/

@[simp] theorem bytesLe_length (w : Word) : (bytesLe w).length = 4 := rfl

@[simp] theorem wordsLe_length (B : List Byte) (n : Nat) : (wordsLe B n).length = n := by simp [wordsLe]

@[simp] theorem ser_nil : ser [] = [] := rfl

@[simp] theorem ser_cons (w : Word) (W : List Word) : ser (w :: W) = bytesLe w ++ ser W := rfl

@[simp] theorem ser_length (W : List Word) : (ser W).length = 4 * W.length := by
  induction W with
  | nil => rfl
  | cons w W ih => simp [ih]; omega

@[simp] theorem feedforward_length (x s : Block) : (feedforward x s).length = 64 := by simp [feedforward]

/-! ## Merge -/

@[simp] theorem merge_false (d k : Byte) : merge d k false = d ^^^ k := rfl

@[simp] theorem merge_true (d k : Byte) : merge d k true = k := rfl

/-- Merging twice with the same keystream byte and KS = 0 restores the data byte (43_pos_xor.md rule R206). -/
theorem merge_merge (d k : Byte) : merge (merge d k false) k false = d := by
  simp

@[simp] theorem mergeBytes_length (ks : Bool) (d k : List Byte) :
    (mergeBytes ks d k).length = min d.length k.length := by simp [mergeBytes]

theorem mergeBytes_getElem? (ks : Bool) (d k : List Byte) (t : Nat) :
    (mergeBytes ks d k)[t]? = d[t]?.bind fun a => k[t]?.map fun b => merge a b ks := by
  simp only [mergeBytes, List.getElem?_zipWith]
  cases d[t]? <;> cases k[t]? <;> rfl

/-! ## Buffers -/

/-- A byte of a buffer after `X[0..m-1] <- bs`: the new byte below `m`, the old one from `m` on. -/
theorem storeBytes_getElem? {n : Nat} (X : Vector Byte n) (bs : List Byte) (k : Nat) (h : k < n) :
    (storeBytes X bs)[k]? = if k < bs.length then bs[k]? else X[k]? := by
  have hl : X.toList.length = n := by simp
  simp only [storeBytes]
  simp only [Vector.getElem?_mk, List.getElem?_toArray, List.getElem?_take, h, ↓reduceIte, List.getElem?_append,
    List.getElem?_drop]
  split
  · rfl
  · rw [show bs.length + (k - bs.length) = k by omega]; simp

theorem storeBytes_toList {n : Nat} (X : Vector Byte n) (bs : List Byte) (h : bs.length ≤ n) :
    (storeBytes X bs).toList = bs ++ X.toList.drop bs.length := by
  have : (X.toList.drop bs.length).length = n - bs.length := by simp
  simp only [storeBytes, Vector.toList_mk]
  apply List.take_of_length_le
  simp; omega

theorem storeBytes_take {n : Nat} (X : Vector Byte n) (bs : List Byte) (h : bs.length ≤ n) :
    (storeBytes X bs).toList.take bs.length = bs := by
  rw [storeBytes_toList X bs h]; simp

theorem storeBytes_drop {n : Nat} (X : Vector Byte n) (bs : List Byte) (h : bs.length ≤ n) :
    (storeBytes X bs).toList.drop bs.length = X.toList.drop bs.length := by
  rw [storeBytes_toList X bs h]; simp

/-- Storing nothing changes nothing. -/
@[simp] theorem storeBytes_nil {n : Nat} (X : Vector Byte n) : storeBytes X [] = X := by
  apply Vector.toList_inj.mp
  rw [storeBytes_toList X [] (Nat.zero_le n)]; simp

/-- A byte of a buffer after a bus write of a word. -/
theorem setBufferWord_getElem? {n : Nat} (X : Vector Byte n) (k j : Nat) (v : Word) (h : k + 3 < n) :
    (setBufferWord X k v)[j]? =
      if k ≤ j ∧ j < k + 4 then some (v.extractLsb' (8 * (j - k)) 8) else X[j]? := by
  simp only [setBufferWord, Vector.getElem?_setIfInBounds]
  by_cases h1 : j < k
  · simp [show ¬(k + 3 = j) by omega, show ¬(k + 2 = j) by omega, show ¬(k + 1 = j) by omega, show ¬(k = j) by omega,
      show ¬(k ≤ j ∧ j < k + 4) by omega]
  · by_cases h2 : j < k + 4
    · obtain rfl | rfl | rfl | rfl : j = k ∨ j = k + 1 ∨ j = k + 2 ∨ j = k + 3 := by omega
      all_goals simp; try omega
    · simp [show ¬(k + 3 = j) by omega, show ¬(k + 2 = j) by omega, show ¬(k + 1 = j) by omega, show ¬(k = j) by omega,
        show ¬(k ≤ j ∧ j < k + 4) by omega]

end Sys2Proof.Machine
end

