-- ==== Sys2Proof/Laws/State.lean ====
section
/-! SUPPORT. What each shared update leaves in each field, and what acceptance, rejection and completion make of STATUS:
one lemma per field per update, true by definition. -/

namespace Sys2Proof.Machine

/-! ## raiseCmdError -/

@[simp] theorem raiseCmdError_latchedCmd (e : CmdError) (s : State) :
    (raiseCmdError e s).latchedCmd = s.latchedCmd := rfl
@[simp] theorem raiseCmdError_status (e : CmdError) (s : State) :
    (raiseCmdError e s).status = s.status.reject e := rfl
@[simp] theorem raiseCmdError_keyLen (e : CmdError) (s : State) : (raiseCmdError e s).keyLen = s.keyLen := rfl
@[simp] theorem raiseCmdError_nonceLen (e : CmdError) (s : State) : (raiseCmdError e s).nonceLen = s.nonceLen := rfl
@[simp] theorem raiseCmdError_len (e : CmdError) (s : State) : (raiseCmdError e s).len = s.len := rfl
@[simp] theorem raiseCmdError_pos (e : CmdError) (s : State) : (raiseCmdError e s).pos = s.pos := rfl
@[simp] theorem raiseCmdError_key (e : CmdError) (s : State) : (raiseCmdError e s).key = s.key := rfl
@[simp] theorem raiseCmdError_nonce (e : CmdError) (s : State) : (raiseCmdError e s).nonce = s.nonce := rfl
@[simp] theorem raiseCmdError_dbuf (e : CmdError) (s : State) : (raiseCmdError e s).dbuf = s.dbuf := rfl
@[simp] theorem raiseCmdError_rc4 (e : CmdError) (s : State) : (raiseCmdError e s).rc4 = s.rc4 := rfl
@[simp] theorem raiseCmdError_hostQueue (e : CmdError) (s : State) :
    (raiseCmdError e s).hostQueue = s.hostQueue := rfl
@[simp] theorem raiseCmdError_readLog (e : CmdError) (s : State) : (raiseCmdError e s).readLog = s.readLog := rfl
@[simp] theorem raiseCmdError_busyLeft (e : CmdError) (s : State) : (raiseCmdError e s).busyLeft = s.busyLeft := rfl
@[simp] theorem raiseCmdError_accepted (e : CmdError) (s : State) : (raiseCmdError e s).accepted = s.accepted := rfl
@[simp] theorem raiseCmdError_draws (e : CmdError) (s : State) : (raiseCmdError e s).draws = s.draws := rfl
@[simp] theorem raiseCmdError_resets (e : CmdError) (s : State) : (raiseCmdError e s).resets = s.resets := rfl

/-! ## completeCommand -/

@[simp] theorem completeCommand_latchedCmd (s : State) : (completeCommand s).latchedCmd = s.latchedCmd := rfl
@[simp] theorem completeCommand_status (s : State) : (completeCommand s).status = s.status.complete := rfl
@[simp] theorem completeCommand_keyLen (s : State) : (completeCommand s).keyLen = s.keyLen := rfl
@[simp] theorem completeCommand_nonceLen (s : State) : (completeCommand s).nonceLen = s.nonceLen := rfl
@[simp] theorem completeCommand_len (s : State) : (completeCommand s).len = s.len := rfl
@[simp] theorem completeCommand_pos (s : State) : (completeCommand s).pos = s.pos := rfl
@[simp] theorem completeCommand_key (s : State) : (completeCommand s).key = s.key := rfl
@[simp] theorem completeCommand_nonce (s : State) : (completeCommand s).nonce = s.nonce := rfl
@[simp] theorem completeCommand_dbuf (s : State) : (completeCommand s).dbuf = s.dbuf := rfl
@[simp] theorem completeCommand_rc4 (s : State) : (completeCommand s).rc4 = s.rc4 := rfl
@[simp] theorem completeCommand_hostQueue (s : State) : (completeCommand s).hostQueue = s.hostQueue := rfl
@[simp] theorem completeCommand_readLog (s : State) : (completeCommand s).readLog = s.readLog := rfl
@[simp] theorem completeCommand_busyLeft (s : State) : (completeCommand s).busyLeft = s.busyLeft := rfl
@[simp] theorem completeCommand_accepted (s : State) : (completeCommand s).accepted = s.accepted := rfl
@[simp] theorem completeCommand_draws (s : State) : (completeCommand s).draws = s.draws := rfl
@[simp] theorem completeCommand_resets (s : State) : (completeCommand s).resets = s.resets := rfl

/-! ## acceptCommand -/

@[simp] theorem acceptCommand_latchedCmd (v : Word) (s : State) : (acceptCommand v s).latchedCmd = v := rfl
@[simp] theorem acceptCommand_status (v : Word) (s : State) : (acceptCommand v s).status = s.status.accept := rfl
@[simp] theorem acceptCommand_keyLen (v : Word) (s : State) : (acceptCommand v s).keyLen = s.keyLen := rfl
@[simp] theorem acceptCommand_nonceLen (v : Word) (s : State) : (acceptCommand v s).nonceLen = s.nonceLen := rfl
@[simp] theorem acceptCommand_len (v : Word) (s : State) : (acceptCommand v s).len = s.len := rfl
@[simp] theorem acceptCommand_pos (v : Word) (s : State) : (acceptCommand v s).pos = s.pos := rfl
@[simp] theorem acceptCommand_key (v : Word) (s : State) : (acceptCommand v s).key = s.key := rfl
@[simp] theorem acceptCommand_nonce (v : Word) (s : State) : (acceptCommand v s).nonce = s.nonce := rfl
@[simp] theorem acceptCommand_dbuf (v : Word) (s : State) : (acceptCommand v s).dbuf = s.dbuf := rfl
@[simp] theorem acceptCommand_rc4 (v : Word) (s : State) : (acceptCommand v s).rc4 = s.rc4 := rfl
@[simp] theorem acceptCommand_hostQueue (v : Word) (s : State) : (acceptCommand v s).hostQueue = s.hostQueue := rfl
@[simp] theorem acceptCommand_readLog (v : Word) (s : State) : (acceptCommand v s).readLog = s.readLog := rfl
@[simp] theorem acceptCommand_busyLeft (v : Word) (s : State) :
    (acceptCommand v s).busyLeft = Config.latency s.accepted := rfl
@[simp] theorem acceptCommand_accepted (v : Word) (s : State) : (acceptCommand v s).accepted = s.accepted + 1 := rfl
@[simp] theorem acceptCommand_draws (v : Word) (s : State) : (acceptCommand v s).draws = s.draws := rfl
@[simp] theorem acceptCommand_resets (v : Word) (s : State) : (acceptCommand v s).resets = s.resets := rfl

/-! ## storeDbuf -/

@[simp] theorem storeDbuf_latchedCmd (bs : List Byte) (s : State) : (storeDbuf bs s).latchedCmd = s.latchedCmd := rfl
@[simp] theorem storeDbuf_status (bs : List Byte) (s : State) : (storeDbuf bs s).status = s.status := rfl
@[simp] theorem storeDbuf_keyLen (bs : List Byte) (s : State) : (storeDbuf bs s).keyLen = s.keyLen := rfl
@[simp] theorem storeDbuf_nonceLen (bs : List Byte) (s : State) : (storeDbuf bs s).nonceLen = s.nonceLen := rfl
@[simp] theorem storeDbuf_len (bs : List Byte) (s : State) : (storeDbuf bs s).len = s.len := rfl
@[simp] theorem storeDbuf_pos (bs : List Byte) (s : State) : (storeDbuf bs s).pos = s.pos := rfl
@[simp] theorem storeDbuf_key (bs : List Byte) (s : State) : (storeDbuf bs s).key = s.key := rfl
@[simp] theorem storeDbuf_nonce (bs : List Byte) (s : State) : (storeDbuf bs s).nonce = s.nonce := rfl
@[simp] theorem storeDbuf_dbuf (bs : List Byte) (s : State) : (storeDbuf bs s).dbuf = storeBytes s.dbuf bs := rfl
@[simp] theorem storeDbuf_rc4 (bs : List Byte) (s : State) : (storeDbuf bs s).rc4 = s.rc4 := rfl
@[simp] theorem storeDbuf_hostQueue (bs : List Byte) (s : State) : (storeDbuf bs s).hostQueue = s.hostQueue := rfl
@[simp] theorem storeDbuf_readLog (bs : List Byte) (s : State) : (storeDbuf bs s).readLog = s.readLog := rfl
@[simp] theorem storeDbuf_busyLeft (bs : List Byte) (s : State) : (storeDbuf bs s).busyLeft = s.busyLeft := rfl
@[simp] theorem storeDbuf_accepted (bs : List Byte) (s : State) : (storeDbuf bs s).accepted = s.accepted := rfl
@[simp] theorem storeDbuf_draws (bs : List Byte) (s : State) : (storeDbuf bs s).draws = s.draws := rfl
@[simp] theorem storeDbuf_resets (bs : List Byte) (s : State) : (storeDbuf bs s).resets = s.resets := rfl

/-! ## mergeDbuf -/

@[simp] theorem mergeDbuf_latchedCmd (ks : Bool) (l : List Byte) (s : State) :
    (mergeDbuf ks l s).latchedCmd = s.latchedCmd := rfl
@[simp] theorem mergeDbuf_status (ks : Bool) (l : List Byte) (s : State) : (mergeDbuf ks l s).status = s.status := rfl
@[simp] theorem mergeDbuf_keyLen (ks : Bool) (l : List Byte) (s : State) : (mergeDbuf ks l s).keyLen = s.keyLen := rfl
@[simp] theorem mergeDbuf_nonceLen (ks : Bool) (l : List Byte) (s : State) :
    (mergeDbuf ks l s).nonceLen = s.nonceLen := rfl
@[simp] theorem mergeDbuf_len (ks : Bool) (l : List Byte) (s : State) : (mergeDbuf ks l s).len = s.len := rfl
@[simp] theorem mergeDbuf_pos (ks : Bool) (l : List Byte) (s : State) : (mergeDbuf ks l s).pos = s.pos := rfl
@[simp] theorem mergeDbuf_key (ks : Bool) (l : List Byte) (s : State) : (mergeDbuf ks l s).key = s.key := rfl
@[simp] theorem mergeDbuf_nonce (ks : Bool) (l : List Byte) (s : State) : (mergeDbuf ks l s).nonce = s.nonce := rfl
@[simp] theorem mergeDbuf_dbuf (ks : Bool) (l : List Byte) (s : State) :
    (mergeDbuf ks l s).dbuf = storeBytes s.dbuf (mergeBytes ks s.dbuf.toList l) := rfl
@[simp] theorem mergeDbuf_rc4 (ks : Bool) (l : List Byte) (s : State) : (mergeDbuf ks l s).rc4 = s.rc4 := rfl
@[simp] theorem mergeDbuf_hostQueue (ks : Bool) (l : List Byte) (s : State) :
    (mergeDbuf ks l s).hostQueue = s.hostQueue := rfl
@[simp] theorem mergeDbuf_readLog (ks : Bool) (l : List Byte) (s : State) :
    (mergeDbuf ks l s).readLog = s.readLog := rfl
@[simp] theorem mergeDbuf_busyLeft (ks : Bool) (l : List Byte) (s : State) :
    (mergeDbuf ks l s).busyLeft = s.busyLeft := rfl
@[simp] theorem mergeDbuf_accepted (ks : Bool) (l : List Byte) (s : State) :
    (mergeDbuf ks l s).accepted = s.accepted := rfl
@[simp] theorem mergeDbuf_draws (ks : Bool) (l : List Byte) (s : State) : (mergeDbuf ks l s).draws = s.draws := rfl
@[simp] theorem mergeDbuf_resets (ks : Bool) (l : List Byte) (s : State) : (mergeDbuf ks l s).resets = s.resets := rfl

/-! ## advancePos -/

@[simp] theorem advancePos_latchedCmd (s : State) : (advancePos s).latchedCmd = s.latchedCmd := rfl
@[simp] theorem advancePos_status (s : State) : (advancePos s).status = s.status := rfl
@[simp] theorem advancePos_keyLen (s : State) : (advancePos s).keyLen = s.keyLen := rfl
@[simp] theorem advancePos_nonceLen (s : State) : (advancePos s).nonceLen = s.nonceLen := rfl
@[simp] theorem advancePos_len (s : State) : (advancePos s).len = s.len := rfl
@[simp] theorem advancePos_pos (s : State) : (advancePos s).pos = s.pos + BitVec.ofNat 70 s.len.toNat := rfl
@[simp] theorem advancePos_key (s : State) : (advancePos s).key = s.key := rfl
@[simp] theorem advancePos_nonce (s : State) : (advancePos s).nonce = s.nonce := rfl
@[simp] theorem advancePos_dbuf (s : State) : (advancePos s).dbuf = s.dbuf := rfl
@[simp] theorem advancePos_rc4 (s : State) : (advancePos s).rc4 = s.rc4 := rfl
@[simp] theorem advancePos_hostQueue (s : State) : (advancePos s).hostQueue = s.hostQueue := rfl
@[simp] theorem advancePos_readLog (s : State) : (advancePos s).readLog = s.readLog := rfl
@[simp] theorem advancePos_busyLeft (s : State) : (advancePos s).busyLeft = s.busyLeft := rfl
@[simp] theorem advancePos_accepted (s : State) : (advancePos s).accepted = s.accepted := rfl
@[simp] theorem advancePos_draws (s : State) : (advancePos s).draws = s.draws := rfl
@[simp] theorem advancePos_resets (s : State) : (advancePos s).resets = s.resets := rfl

/-! ## busRead -/

@[simp] theorem busRead_latchedCmd (off : Nat) (s : State) : (busRead off s).latchedCmd = s.latchedCmd := rfl
@[simp] theorem busRead_status (off : Nat) (s : State) : (busRead off s).status = s.status := rfl
@[simp] theorem busRead_keyLen (off : Nat) (s : State) : (busRead off s).keyLen = s.keyLen := rfl
@[simp] theorem busRead_nonceLen (off : Nat) (s : State) : (busRead off s).nonceLen = s.nonceLen := rfl
@[simp] theorem busRead_len (off : Nat) (s : State) : (busRead off s).len = s.len := rfl
@[simp] theorem busRead_pos (off : Nat) (s : State) : (busRead off s).pos = s.pos := rfl
@[simp] theorem busRead_key (off : Nat) (s : State) : (busRead off s).key = s.key := rfl
@[simp] theorem busRead_nonce (off : Nat) (s : State) : (busRead off s).nonce = s.nonce := rfl
@[simp] theorem busRead_dbuf (off : Nat) (s : State) : (busRead off s).dbuf = s.dbuf := rfl
@[simp] theorem busRead_rc4 (off : Nat) (s : State) : (busRead off s).rc4 = s.rc4 := rfl
@[simp] theorem busRead_hostQueue (off : Nat) (s : State) : (busRead off s).hostQueue = s.hostQueue := rfl
@[simp] theorem busRead_readLog (off : Nat) (s : State) :
    (busRead off s).readLog = ⟨off, (readValue s (locate off)).1⟩ :: s.readLog := rfl
@[simp] theorem busRead_busyLeft (off : Nat) (s : State) : (busRead off s).busyLeft = s.busyLeft := rfl
@[simp] theorem busRead_accepted (off : Nat) (s : State) : (busRead off s).accepted = s.accepted := rfl
@[simp] theorem busRead_draws (off : Nat) (s : State) : (busRead off s).draws = (readValue s (locate off)).2 := rfl
@[simp] theorem busRead_resets (off : Nat) (s : State) : (busRead off s).resets = s.resets := rfl

/-! ## takeEvent -/

@[simp] theorem takeEvent_latchedCmd (rest : List HostEvent) (s : State) :
    (takeEvent rest s).latchedCmd = s.latchedCmd := rfl
@[simp] theorem takeEvent_status (rest : List HostEvent) (s : State) : (takeEvent rest s).status = s.status := rfl
@[simp] theorem takeEvent_keyLen (rest : List HostEvent) (s : State) : (takeEvent rest s).keyLen = s.keyLen := rfl
@[simp] theorem takeEvent_nonceLen (rest : List HostEvent) (s : State) :
    (takeEvent rest s).nonceLen = s.nonceLen := rfl
@[simp] theorem takeEvent_len (rest : List HostEvent) (s : State) : (takeEvent rest s).len = s.len := rfl
@[simp] theorem takeEvent_pos (rest : List HostEvent) (s : State) : (takeEvent rest s).pos = s.pos := rfl
@[simp] theorem takeEvent_key (rest : List HostEvent) (s : State) : (takeEvent rest s).key = s.key := rfl
@[simp] theorem takeEvent_nonce (rest : List HostEvent) (s : State) : (takeEvent rest s).nonce = s.nonce := rfl
@[simp] theorem takeEvent_dbuf (rest : List HostEvent) (s : State) : (takeEvent rest s).dbuf = s.dbuf := rfl
@[simp] theorem takeEvent_rc4 (rest : List HostEvent) (s : State) : (takeEvent rest s).rc4 = s.rc4 := rfl
@[simp] theorem takeEvent_hostQueue (rest : List HostEvent) (s : State) : (takeEvent rest s).hostQueue = rest := rfl
@[simp] theorem takeEvent_readLog (rest : List HostEvent) (s : State) : (takeEvent rest s).readLog = s.readLog := rfl
@[simp] theorem takeEvent_busyLeft (rest : List HostEvent) (s : State) :
    (takeEvent rest s).busyLeft = s.busyLeft - 1 := rfl
@[simp] theorem takeEvent_accepted (rest : List HostEvent) (s : State) :
    (takeEvent rest s).accepted = s.accepted := rfl
@[simp] theorem takeEvent_draws (rest : List HostEvent) (s : State) : (takeEvent rest s).draws = s.draws := rfl
@[simp] theorem takeEvent_resets (rest : List HostEvent) (s : State) : (takeEvent rest s).resets = s.resets := rfl

/-! ## issue -/

@[simp] theorem issue_latchedCmd (events : List HostEvent) (s : State) :
    (issue events s).latchedCmd = s.latchedCmd := rfl
@[simp] theorem issue_status (events : List HostEvent) (s : State) : (issue events s).status = s.status := rfl
@[simp] theorem issue_keyLen (events : List HostEvent) (s : State) : (issue events s).keyLen = s.keyLen := rfl
@[simp] theorem issue_nonceLen (events : List HostEvent) (s : State) : (issue events s).nonceLen = s.nonceLen := rfl
@[simp] theorem issue_len (events : List HostEvent) (s : State) : (issue events s).len = s.len := rfl
@[simp] theorem issue_pos (events : List HostEvent) (s : State) : (issue events s).pos = s.pos := rfl
@[simp] theorem issue_key (events : List HostEvent) (s : State) : (issue events s).key = s.key := rfl
@[simp] theorem issue_nonce (events : List HostEvent) (s : State) : (issue events s).nonce = s.nonce := rfl
@[simp] theorem issue_dbuf (events : List HostEvent) (s : State) : (issue events s).dbuf = s.dbuf := rfl
@[simp] theorem issue_rc4 (events : List HostEvent) (s : State) : (issue events s).rc4 = s.rc4 := rfl
@[simp] theorem issue_hostQueue (events : List HostEvent) (s : State) :
    (issue events s).hostQueue = s.hostQueue ++ events := rfl
@[simp] theorem issue_readLog (events : List HostEvent) (s : State) : (issue events s).readLog = s.readLog := rfl
@[simp] theorem issue_busyLeft (events : List HostEvent) (s : State) : (issue events s).busyLeft = s.busyLeft := rfl
@[simp] theorem issue_accepted (events : List HostEvent) (s : State) : (issue events s).accepted = s.accepted := rfl
@[simp] theorem issue_draws (events : List HostEvent) (s : State) : (issue events s).draws = s.draws := rfl
@[simp] theorem issue_resets (events : List HostEvent) (s : State) : (issue events s).resets = s.resets := rfl

/-! ## resetCore -/

@[simp] theorem resetCore_latchedCmd (s : State) : (resetCore s).latchedCmd = 0 := rfl
@[simp] theorem resetCore_status (s : State) : (resetCore s).status = Status.clear := rfl
@[simp] theorem resetCore_keyLen (s : State) : (resetCore s).keyLen = 0 := rfl
@[simp] theorem resetCore_nonceLen (s : State) : (resetCore s).nonceLen = 0 := rfl
@[simp] theorem resetCore_len (s : State) : (resetCore s).len = 0 := rfl
@[simp] theorem resetCore_pos (s : State) : (resetCore s).pos = 0 := rfl
@[simp] theorem resetCore_key (s : State) : (resetCore s).key = keyAtReset (s.resets + 1) := rfl
@[simp] theorem resetCore_nonce (s : State) : (resetCore s).nonce = nonceAtReset (s.resets + 1) := rfl
@[simp] theorem resetCore_dbuf (s : State) : (resetCore s).dbuf = dbufAtReset (s.resets + 1) := rfl
@[simp] theorem resetCore_rc4 (s : State) : (resetCore s).rc4 = rc4AtReset (s.resets + 1) := rfl
@[simp] theorem resetCore_hostQueue (s : State) : (resetCore s).hostQueue = s.hostQueue := rfl
@[simp] theorem resetCore_readLog (s : State) : (resetCore s).readLog = s.readLog := rfl
@[simp] theorem resetCore_busyLeft (s : State) : (resetCore s).busyLeft = 0 := rfl
@[simp] theorem resetCore_accepted (s : State) : (resetCore s).accepted = s.accepted := rfl
@[simp] theorem resetCore_draws (s : State) : (resetCore s).draws = s.draws := rfl
@[simp] theorem resetCore_resets (s : State) : (resetCore s).resets = s.resets + 1 := rfl

/-! ## STATUS -/

@[simp] theorem Status.accept_busy (t : Status) : (t.accept).busy = true := rfl
@[simp] theorem Status.accept_done (t : Status) : (t.accept).done = false := rfl
@[simp] theorem Status.accept_err (t : Status) : (t.accept).err = false := rfl
@[simp] theorem Status.accept_rc4v (t : Status) : (t.accept).rc4v = t.rc4v := rfl
@[simp] theorem Status.accept_wdrop (t : Status) : (t.accept).wdrop = false := rfl
@[simp] theorem Status.accept_errcode (t : Status) : (t.accept).errcode = 0 := rfl

@[simp] theorem Status.reject_busy (e : CmdError) (t : Status) : (t.reject e).busy = false := rfl
@[simp] theorem Status.reject_done (e : CmdError) (t : Status) : (t.reject e).done = false := rfl
@[simp] theorem Status.reject_err (e : CmdError) (t : Status) : (t.reject e).err = true := rfl
@[simp] theorem Status.reject_rc4v (e : CmdError) (t : Status) : (t.reject e).rc4v = t.rc4v := rfl
@[simp] theorem Status.reject_wdrop (e : CmdError) (t : Status) : (t.reject e).wdrop = t.wdrop := rfl
@[simp] theorem Status.reject_errcode (e : CmdError) (t : Status) : (t.reject e).errcode = e.code := rfl

@[simp] theorem Status.complete_busy (t : Status) : (t.complete).busy = false := rfl
@[simp] theorem Status.complete_done (t : Status) : (t.complete).done = true := rfl
@[simp] theorem Status.complete_err (t : Status) : (t.complete).err = false := rfl
@[simp] theorem Status.complete_rc4v (t : Status) : (t.complete).rc4v = t.rc4v := rfl
@[simp] theorem Status.complete_wdrop (t : Status) : (t.complete).wdrop = t.wdrop := rfl
@[simp] theorem Status.complete_errcode (t : Status) : (t.complete).errcode = 0 := rfl

@[simp] theorem Status.dropWrite_busy (t : Status) : (t.dropWrite).busy = t.busy := rfl
@[simp] theorem Status.dropWrite_done (t : Status) : (t.dropWrite).done = t.done := rfl
@[simp] theorem Status.dropWrite_err (t : Status) : (t.dropWrite).err = t.err := rfl
@[simp] theorem Status.dropWrite_rc4v (t : Status) : (t.dropWrite).rc4v = t.rc4v := rfl
@[simp] theorem Status.dropWrite_wdrop (t : Status) : (t.dropWrite).wdrop = true := rfl
@[simp] theorem Status.dropWrite_errcode (t : Status) : (t.dropWrite).errcode = t.errcode := rfl

@[simp] theorem Status.schedule_busy (t : Status) : (t.schedule).busy = t.busy := rfl
@[simp] theorem Status.schedule_done (t : Status) : (t.schedule).done = t.done := rfl
@[simp] theorem Status.schedule_err (t : Status) : (t.schedule).err = t.err := rfl
@[simp] theorem Status.schedule_rc4v (t : Status) : (t.schedule).rc4v = true := rfl
@[simp] theorem Status.schedule_wdrop (t : Status) : (t.schedule).wdrop = t.wdrop := rfl
@[simp] theorem Status.schedule_errcode (t : Status) : (t.schedule).errcode = t.errcode := rfl

@[simp] theorem Status.clear_busy : Status.clear.busy = false := rfl
@[simp] theorem Status.clear_done : Status.clear.done = false := rfl
@[simp] theorem Status.clear_err : Status.clear.err = false := rfl
@[simp] theorem Status.clear_rc4v : Status.clear.rc4v = false := rfl
@[simp] theorem Status.clear_wdrop : Status.clear.wdrop = false := rfl
@[simp] theorem Status.clear_errcode : Status.clear.errcode = 0 := rfl

end Sys2Proof.Machine
end

