-- ==== Sys2Proof/Laws/Step.lean ====
section
/-! SUPPORT. What a command can do, what a host event can do, and what a step can do: one inversion lemma for each. -/

namespace Sys2Proof.Machine

/-! ## Commands -/

/-- The checks a command performs after decoding, in order. -/
def checksOf (s : State) : Instr → List (Option CmdError)
  | .rc4Ksa => [checkRc4Key s]
  | .rc4Prga _ => [checkLen s, checkRc4State s]
  | .salsa20Stream _ => [checkCipherKey s, checkNonce [8, 24] s, checkLen s]
  | .hsalsa20 => [checkCipherKey s, checkNonce [16] s]
  | .salsa20Block => []
  | .chacha20Stream _ => [checkCipherKey s, checkNonce [12, 24] s, checkLen s, checkRange s]
  | .hchacha20 => [checkCipherKey s, checkNonce [16] s]
  | .chacha20Block => []

/-- The effect of a command that passes its checks. -/
def effectOf (s : State) : Instr → State
  | .rc4Ksa => rc4KsaEffect s
  | .rc4Prga ks => rc4PrgaEffect ks s
  | .salsa20Stream ks => salsa20StreamEffect ks s
  | .hsalsa20 => hsalsa20Effect s
  | .salsa20Block => salsa20BlockEffect s
  | .chacha20Stream ks => chacha20StreamEffect ks s
  | .hchacha20 => hchacha20Effect s
  | .chacha20Block => chacha20BlockEffect s

/-- Every command is its checks and then its effect. -/
theorem exec_eq (i : Instr) (s : State) :
    exec i s = match firstError (checksOf s i) with
      | some e => .next (raiseCmdError e s)
      | none => .next (completeCommand (effectOf s i)) := by
  cases i <;> rfl

/-- A command whose check fails is rejected with the first error. -/
theorem exec_rejected {i : Instr} {s : State} {e : CmdError} (h : firstError (checksOf s i) = some e) :
    exec i s = .next (raiseCmdError e s) := by rw [exec_eq, h]

/-- A command whose checks pass completes. -/
theorem exec_completed {i : Instr} {s : State} (h : firstError (checksOf s i) = none) :
    exec i s = .next (completeCommand (effectOf s i)) := by rw [exec_eq, h]

/-- What a command can do: be rejected with the first failing check, or complete with its effect. -/
theorem exec_cases {i : Instr} {s t : State} (h : exec i s = .next t) :
    (∃ e, firstError (checksOf s i) = some e ∧ t = raiseCmdError e s) ∨
    (firstError (checksOf s i) = none ∧ t = completeCommand (effectOf s i)) := by
  rw [exec_eq] at h
  cases hf : firstError (checksOf s i) with
  | some e => rw [hf] at h; injection h with h; exact .inl ⟨e, rfl, h.symm⟩
  | none => rw [hf] at h; injection h with h; exact .inr ⟨rfl, h.symm⟩

/-- Every command answers a next state. -/
theorem exec_next (i : Instr) (s : State) : ∃ t, exec i s = .next t := by
  rw [exec_eq]; split <;> exact ⟨_, rfl⟩

/-! ### The fields an effect leaves alone -/

@[simp] theorem effectOf_latchedCmd (s : State) (i : Instr) : (effectOf s i).latchedCmd = s.latchedCmd := by
  cases i <;> simp [effectOf, rc4KsaEffect, rc4PrgaEffect, salsa20StreamEffect, hsalsa20Effect, salsa20BlockEffect,
    chacha20StreamEffect, hchacha20Effect, chacha20BlockEffect]
@[simp] theorem effectOf_keyLen (s : State) (i : Instr) : (effectOf s i).keyLen = s.keyLen := by
  cases i <;> simp [effectOf, rc4KsaEffect, rc4PrgaEffect, salsa20StreamEffect, hsalsa20Effect, salsa20BlockEffect,
    chacha20StreamEffect, hchacha20Effect, chacha20BlockEffect]
@[simp] theorem effectOf_nonceLen (s : State) (i : Instr) : (effectOf s i).nonceLen = s.nonceLen := by
  cases i <;> simp [effectOf, rc4KsaEffect, rc4PrgaEffect, salsa20StreamEffect, hsalsa20Effect, salsa20BlockEffect,
    chacha20StreamEffect, hchacha20Effect, chacha20BlockEffect]
@[simp] theorem effectOf_len (s : State) (i : Instr) : (effectOf s i).len = s.len := by
  cases i <;> simp [effectOf, rc4KsaEffect, rc4PrgaEffect, salsa20StreamEffect, hsalsa20Effect, salsa20BlockEffect,
    chacha20StreamEffect, hchacha20Effect, chacha20BlockEffect]
@[simp] theorem effectOf_key (s : State) (i : Instr) : (effectOf s i).key = s.key := by
  cases i <;> simp [effectOf, rc4KsaEffect, rc4PrgaEffect, salsa20StreamEffect, hsalsa20Effect, salsa20BlockEffect,
    chacha20StreamEffect, hchacha20Effect, chacha20BlockEffect]
@[simp] theorem effectOf_nonce (s : State) (i : Instr) : (effectOf s i).nonce = s.nonce := by
  cases i <;> simp [effectOf, rc4KsaEffect, rc4PrgaEffect, salsa20StreamEffect, hsalsa20Effect, salsa20BlockEffect,
    chacha20StreamEffect, hchacha20Effect, chacha20BlockEffect]
@[simp] theorem effectOf_hostQueue (s : State) (i : Instr) : (effectOf s i).hostQueue = s.hostQueue := by
  cases i <;> simp [effectOf, rc4KsaEffect, rc4PrgaEffect, salsa20StreamEffect, hsalsa20Effect, salsa20BlockEffect,
    chacha20StreamEffect, hchacha20Effect, chacha20BlockEffect]
@[simp] theorem effectOf_readLog (s : State) (i : Instr) : (effectOf s i).readLog = s.readLog := by
  cases i <;> simp [effectOf, rc4KsaEffect, rc4PrgaEffect, salsa20StreamEffect, hsalsa20Effect, salsa20BlockEffect,
    chacha20StreamEffect, hchacha20Effect, chacha20BlockEffect]
@[simp] theorem effectOf_busyLeft (s : State) (i : Instr) : (effectOf s i).busyLeft = s.busyLeft := by
  cases i <;> simp [effectOf, rc4KsaEffect, rc4PrgaEffect, salsa20StreamEffect, hsalsa20Effect, salsa20BlockEffect,
    chacha20StreamEffect, hchacha20Effect, chacha20BlockEffect]
@[simp] theorem effectOf_accepted (s : State) (i : Instr) : (effectOf s i).accepted = s.accepted := by
  cases i <;> simp [effectOf, rc4KsaEffect, rc4PrgaEffect, salsa20StreamEffect, hsalsa20Effect, salsa20BlockEffect,
    chacha20StreamEffect, hchacha20Effect, chacha20BlockEffect]
@[simp] theorem effectOf_draws (s : State) (i : Instr) : (effectOf s i).draws = s.draws := by
  cases i <;> simp [effectOf, rc4KsaEffect, rc4PrgaEffect, salsa20StreamEffect, hsalsa20Effect, salsa20BlockEffect,
    chacha20StreamEffect, hchacha20Effect, chacha20BlockEffect]
@[simp] theorem effectOf_resets (s : State) (i : Instr) : (effectOf s i).resets = s.resets := by
  cases i <;> simp [effectOf, rc4KsaEffect, rc4PrgaEffect, salsa20StreamEffect, hsalsa20Effect, salsa20BlockEffect,
    chacha20StreamEffect, hchacha20Effect, chacha20BlockEffect]

/-- Of STATUS an effect changes RC4V alone, and only RC4_KSA's does. -/
theorem effectOf_status (s : State) (i : Instr) :
    (effectOf s i).status = if i = .rc4Ksa then s.status.schedule else s.status := by
  cases i <;> simp [effectOf, rc4KsaEffect, rc4PrgaEffect, salsa20StreamEffect, hsalsa20Effect, salsa20BlockEffect,
    chacha20StreamEffect, hchacha20Effect, chacha20BlockEffect]

/-! ## Turns -/

/-- When the command's step is the next. -/
theorem nextTurn_command {s : State} : nextTurn s = .command ↔
    s.status.busy = true ∧ (s.hostQueue = [] ∨ (∃ rest, s.hostQueue = .poll :: rest) ∨
      (s.busyLeft = 0 ∧ ∀ rest, s.hostQueue ≠ .reset :: rest)) := by
  unfold nextTurn
  rcases hq : s.hostQueue with _ | ⟨(_ | _ | _ | _), rest⟩ <;> simp

/-- When a host event is the next, and which. -/
theorem nextTurn_host {s : State} {e : HostEvent} {rest : List HostEvent} : nextTurn s = .host e rest ↔
    s.hostQueue = e :: rest ∧ (s.status.busy = true → e = .reset ∨ (e ≠ .poll ∧ 0 < s.busyLeft)) := by
  unfold nextTurn
  rcases hq : s.hostQueue with _ | ⟨(_ | _ | _ | _), rest'⟩ <;> simp
  · split <;> simp
  · split <;> simp_all
    · intro h; subst h; simp
    · rintro rfl rfl
      simpa using fun hb => Nat.pos_of_ne_zero (‹s.status.busy = true → ¬s.busyLeft = 0› hb)
  · split <;> simp_all
    · intro h; subst h; simp
    · rintro rfl rfl
      simpa using fun hb => Nat.pos_of_ne_zero (‹s.status.busy = true → ¬s.busyLeft = 0› hb)
  · split <;> simp_all
    intro h; subst h; simp
  · rintro rfl; simp

/-- When nothing happens. -/
theorem nextTurn_idle {s : State} : nextTurn s = .idle ↔ s.status.busy = false ∧ s.hostQueue = [] := by
  unfold nextTurn
  rcases hq : s.hostQueue with _ | ⟨(_ | _ | _ | _), rest⟩ <;> simp
  all_goals split <;> simp

/-! ## Host events -/

/-- An access is inside the contract exactly when it is 32 bits wide, aligned and in the window. -/
theorem accessProblem_none {off bytes : Nat} :
    accessProblem off bytes = none ↔ bytes = 4 ∧ off % 4 = 0 ∧ off < 4096 := by
  unfold accessProblem Config.windowBytes
  split
  · simp; omega
  · split
    · simp; omega
    · split <;> simp <;> omega

/-- A host write while BUSY = 1 only sets WDROP. -/
theorem busWrite_busy {s : State} (off : Nat) (v : Word) (h : s.status.busy = true) :
    busWrite off v s = { s with status := s.status.dropWrite } := by simp [busWrite, h]

/-- A host write while BUSY = 0 goes to its place. -/
theorem busWrite_idle {s : State} (off : Nat) (v : Word) (h : s.status.busy = false) :
    busWrite off v s = writeLoc v s (locate off) := by simp [busWrite, h]

/-- A read while BUSY = 0 returns the place's value and uses up no free value. -/
theorem readValue_idle {s : State} (l : Loc) (h : s.status.busy = false) : readValue s l = (locValue s l, s.draws) := by
  simp [readValue, h]

/-- A read at a place that is not volatile returns its value, busy or not. -/
theorem readValue_stable (s : State) {l : Loc} (h : l.isVolatile = false) : readValue s l = (locValue s l, s.draws) := by
  simp [readValue, h]

/-- A read at a volatile place while BUSY = 1 uses up one free value. -/
theorem readValue_volatile {s : State} {l : Loc} (hb : s.status.busy = true) (h : l.isVolatile = true) :
    readValue s l = (Config.busyRead s.draws, s.draws + 1) := by simp [readValue, hb, h]

/-! ## Steps -/

theorem step_idle {s : State} (h : nextTurn s = .idle) : step s = .next s := by simp [step, h]

theorem step_command {s : State} (h : nextTurn s = .command) : step s = commandStep s := by simp [step, h]

theorem step_host {s : State} {e : HostEvent} {rest : List HostEvent} (h : nextTurn s = .host e rest)
    (hp : e.problem = none) : step s = .next (applyEvent (takeEvent rest s) e) := by simp [step, h, hostStep, hp]

theorem step_refused {s : State} {e : HostEvent} {rest : List HostEvent} {r : Refusal} (h : nextTurn s = .host e rest)
    (hp : e.problem = some r) : step s = .refused r := by simp [step, h, hostStep, hp]

/-- What a step that answers a next state can do: stay idle; reject an ILLEGAL word; run the decoded command; or take
one event of the outside world that is inside the contract. -/
theorem step_cases {s t : State} (h : step s = .next t) :
    (nextTurn s = .idle ∧ t = s) ∨
    (nextTurn s = .command ∧ (∃ e, decode s.latchedCmd = .error e) ∧ t = raiseCmdError .illegal s) ∨
    (nextTurn s = .command ∧ ∃ i, decode s.latchedCmd = .ok i ∧ exec i s = .next t) ∨
    (∃ e rest, nextTurn s = .host e rest ∧ e.problem = none ∧ t = applyEvent (takeEvent rest s) e) := by
  rcases hn : nextTurn s with _ | _ | ⟨e, rest⟩
  · rw [step_idle hn] at h; injection h with h; exact .inl ⟨rfl, h.symm⟩
  · rw [step_command hn] at h
    unfold commandStep at h
    cases hd : decode s.latchedCmd with
    | error e => rw [hd] at h; injection h with h; exact .inr (.inl ⟨rfl, ⟨e, rfl⟩, h.symm⟩)
    | ok i => rw [hd] at h; exact .inr (.inr (.inl ⟨rfl, i, rfl, h⟩))
  · cases hp : e.problem with
    | some r => rw [step_refused hn hp] at h; cases h
    | none => rw [step_host hn hp] at h; injection h with h; exact .inr (.inr (.inr ⟨e, rest, rfl, hp, h.symm⟩))

/-- A step answers a next state unless the event whose turn it is stands outside the contract. -/
theorem step_next (s : State) (h : ∀ e rest, nextTurn s = .host e rest → e.problem = none) : ∃ t, step s = .next t := by
  rcases hn : nextTurn s with _ | _ | ⟨e, rest⟩
  · exact ⟨s, step_idle hn⟩
  · rw [step_command hn]
    unfold commandStep
    split
    · exact exec_next _ _
    · exact ⟨_, rfl⟩
  · exact ⟨_, step_host hn (h e rest hn)⟩

/-- `withFetchWord` makes the accepted word's step the next one. -/
theorem withFetchWord_due (s : State) (nbits w : Nat) : nextTurn (s.withFetchWord nbits w) = .command := by
  rw [nextTurn_command]
  refine ⟨rfl, .inr (.inr ⟨rfl, fun rest h => ?_⟩)⟩
  have : ∀ l : List HostEvent, l.dropWhile (· == .reset) ≠ .reset :: rest := by
    intro l
    induction l with
    | nil => simp
    | cons e l ih =>
      rw [List.dropWhile_cons]
      split
      · exact ih
      · rintro ⟨⟩; simp_all
  exact this _ h

end Sys2Proof.Machine
end

