-- ==== Sys2Proof/Laws/Bus.lean ====
section
/-! SUPPORT. Which place stands at which window offset, what a bus write leaves alone, and runs step by step. -/

namespace Sys2Proof.Machine

/-! ## The window's map (20_memory.md rule R61) -/

theorem ite_ne {α : Type} {p : Prop} [Decidable p] {a b c : α} (ha : a ≠ c) (hb : b ≠ c) :
    (if p then a else b) ≠ c := by
  split <;> assumption

theorem locate_cmd {off : Nat} : locate off = .cmd ↔ off = 0x000 := by
  constructor
  · intro h
    by_contra h0
    unfold locate at h
    rw [if_neg h0] at h
    revert h
    iterate 13 refine ite_ne nofun ?_
    nofun
  · rintro rfl; rfl

theorem locate_key {off : Nat} (h1 : 0x100 ≤ off) (h2 : off < 0x200) : locate off = .key (off - 0x100) := by
  unfold locate keyBase
  iterate 11 rw [if_neg (by omega)]
  rw [if_pos (by omega)]

theorem locate_nonce {off : Nat} (h1 : 0x200 ≤ off) (h2 : off < 0x218) : locate off = .nonce (off - 0x200) := by
  unfold locate keyBase nonceBase
  iterate 12 rw [if_neg (by omega)]
  rw [if_pos (by omega)]

theorem locate_dbuf {off : Nat} (h1 : 0x800 ≤ off) (h2 : off < 0x800 + Config.dbufBytes) :
    locate off = .dbuf (off - 0x800) := by
  unfold locate keyBase nonceBase dbufBase
  iterate 13 rw [if_neg (by omega)]
  rw [if_pos (by omega)]

theorem locate_reserved {off : Nat}
    (h : (0x02C ≤ off ∧ off < 0x100) ∨ (0x218 ≤ off ∧ off < 0x800) ∨ 0x800 + Config.dbufBytes ≤ off) :
    locate off = .reserved := by
  unfold locate keyBase nonceBase dbufBase
  iterate 14 rw [if_neg (by omega)]

/-- Where KEY's bytes stand. -/
theorem of_locate_key {off k : Nat} (h : locate off = .key k) : 0x100 ≤ off ∧ off < 0x200 ∧ k = off - 0x100 := by
  by_cases hr : 0x100 ≤ off ∧ off < 0x200
  · rw [locate_key hr.1 hr.2] at h
    injection h with h
    exact ⟨hr.1, hr.2, h.symm⟩
  · refine absurd h ?_
    unfold locate keyBase
    iterate 11 refine ite_ne nofun ?_
    rw [if_neg hr]
    exact ite_ne nofun (ite_ne nofun nofun)

/-- Where NONCE's bytes stand. -/
theorem of_locate_nonce {off k : Nat} (h : locate off = .nonce k) : 0x200 ≤ off ∧ off < 0x218 ∧ k = off - 0x200 := by
  by_cases hr : 0x200 ≤ off ∧ off < 0x218
  · rw [locate_nonce hr.1 hr.2] at h
    injection h with h
    exact ⟨hr.1, hr.2, h.symm⟩
  · refine absurd h ?_
    unfold locate nonceBase
    iterate 12 refine ite_ne nofun ?_
    rw [if_neg hr]
    exact ite_ne nofun nofun

/-- Where DBUF's bytes stand. -/
theorem of_locate_dbuf {off k : Nat} (h : locate off = .dbuf k) :
    0x800 ≤ off ∧ off < 0x800 + Config.dbufBytes ∧ k = off - 0x800 := by
  by_cases hr : 0x800 ≤ off ∧ off < 0x800 + Config.dbufBytes
  · rw [locate_dbuf hr.1 hr.2] at h
    injection h with h
    exact ⟨hr.1, hr.2, h.symm⟩
  · refine absurd h ?_
    unfold locate dbufBase
    iterate 13 refine ite_ne nofun ?_
    rw [if_neg hr]
    nofun

/-! ## The buffers' bytes -/

theorem bufferByte_key {s : State} {off : Nat} (h1 : 0x100 ≤ off) (h2 : off < 0x200) :
    bufferByte s off = s.key[off - 0x100]? := by rw [bufferByte, locate_key h1 h2]

theorem bufferByte_nonce {s : State} {off : Nat} (h1 : 0x200 ≤ off) (h2 : off < 0x218) :
    bufferByte s off = s.nonce[off - 0x200]? := by rw [bufferByte, locate_nonce h1 h2]

theorem bufferByte_dbuf {s : State} {off : Nat} (h1 : 0x800 ≤ off) (h2 : off < 0x800 + Config.dbufBytes) :
    bufferByte s off = s.dbuf[off - 0x800]? := by rw [bufferByte, locate_dbuf h1 h2]

/-- The buffers' bytes are all that `bufferByte` reads. -/
theorem bufferByte_congr {s t : State} (hk : t.key = s.key) (hn : t.nonce = s.nonce) (hd : t.dbuf = s.dbuf) (off : Nat) :
    bufferByte t off = bufferByte s off := by
  unfold bufferByte; rw [hk, hn, hd]

/-! ## Bus writes -/

/-- Only a CMD write changes STATUS. -/
theorem writeLoc_status {s : State} {v : Word} {l : Loc} (h : l ≠ .cmd) : (writeLoc v s l).status = s.status := by
  cases l <;> simp_all [writeLoc]

/-- Only a CMD write changes the latched word. -/
theorem writeLoc_latchedCmd {s : State} {v : Word} {l : Loc} (h : l ≠ .cmd) :
    (writeLoc v s l).latchedCmd = s.latchedCmd := by
  cases l <;> simp_all [writeLoc]

/-- No bus access touches the RC4 state. -/
@[simp] theorem writeLoc_rc4 (s : State) (v : Word) (l : Loc) : (writeLoc v s l).rc4 = s.rc4 := by
  cases l <;> rfl

@[simp] theorem busWrite_rc4 (off : Nat) (s : State) (v : Word) : (busWrite off v s).rc4 = s.rc4 := by
  unfold busWrite; split <;> simp

/-- Only a write to POS0, POS1 or POS2 changes POS. -/
theorem writeLoc_pos {s : State} {v : Word} {l : Loc} (h : l ≠ .pos0 ∧ l ≠ .pos1 ∧ l ≠ .pos2) :
    (writeLoc v s l).pos = s.pos := by
  cases l <;> simp_all [writeLoc]

/-! ## Runs -/

@[simp] theorem core_run_zero (s : State) : core.run 0 s = .next s := rfl

/-- A run's first step, if it answers a next state. -/
theorem core_run_next {n : Nat} {s t : State} (h : step s = .next t) : core.run (n + 1) s = core.run n t := by
  have : core.step s = .next t := h
  show Host.Core.run core (n + 1) s = _
  simp only [Host.Core.run, this]

end Sys2Proof.Machine
end

