-- ==== Sys2Proof/Laws/PerInstr.lean ====
section
/-! SUPPORT. What holds of every command as syntax, constructor by constructor. -/

namespace Sys2Proof.Laws.LegalWord

/-- The command's fields are legal, and its word has exactly those fields (30_encoding.md rules R90, R94). -/
def Statement (i : Instr) : Prop := i.fields.wellFormed = true ∧ fieldsOf (encode i) = i.fields

theorem rc4Ksa : Statement .rc4Ksa := ⟨by decide, by decide⟩
theorem rc4Prga (ks : Bool) : Statement (.rc4Prga ks) := by cases ks <;> exact ⟨by decide, by decide⟩
theorem salsa20Stream (ks : Bool) : Statement (.salsa20Stream ks) := by cases ks <;> exact ⟨by decide, by decide⟩
theorem hsalsa20 : Statement .hsalsa20 := ⟨by decide, by decide⟩
theorem salsa20Block : Statement .salsa20Block := ⟨by decide, by decide⟩
theorem chacha20Stream (ks : Bool) : Statement (.chacha20Stream ks) := by cases ks <;> exact ⟨by decide, by decide⟩
theorem hchacha20 : Statement .hchacha20 := ⟨by decide, by decide⟩
theorem chacha20Block : Statement .chacha20Block := ⟨by decide, by decide⟩

end Sys2Proof.Laws.LegalWord
end

