-- ==== Sys2Proof/Laws/Rc4.lean ====
section
/-! SUPPORT. The RC4 engine: a swap keeps a permutation a permutation, and what a run of PRGA steps is made of. -/

namespace Sys2Proof.Machine

theorem permAt_eq (S : Vector Byte 256) (k : Byte) : permAt S k = S[k.toNat]'k.isLt := rfl

@[simp] theorem permAt_identityRom (k : Byte) : permAt identityRom k = k := by
  simp [permAt, identityRom]

/-- `S[k]` after `swap(S[a], S[b])`. -/
theorem permAt_permSwap (S : Vector Byte 256) (a b k : Byte) :
    permAt (permSwap S a b) k = if k = b then permAt S a else if k = a then permAt S b else permAt S k := by
  unfold permSwap
  rw [permAt_eq, Vector.getElem_set, Vector.getElem_set]
  simp only [← permAt_eq, BitVec.toNat_inj]
  simp only [eq_comm]

/-- A swap is a transposition of the indices. -/
theorem permAt_permSwap_eq (S : Vector Byte 256) (a b : Byte) :
    permAt (permSwap S a b) = permAt S ∘ Equiv.swap a b := by
  funext k
  rw [permAt_permSwap, Function.comp_apply, Equiv.swap_apply_def]
  split
  · subst k; split
    · subst b; rfl
    · rfl
  · split <;> rfl

theorem isPermutation_identityRom : IsPermutation identityRom := by
  have : permAt identityRom = id := by funext k; simp
  rw [IsPermutation, this]; exact Function.bijective_id

/-- A swap keeps a permutation a permutation (10_state.md rule R36). -/
theorem isPermutation_permSwap {S : Vector Byte 256} (a b : Byte) (h : IsPermutation S) :
    IsPermutation (permSwap S a b) := by
  rw [IsPermutation, permAt_permSwap_eq]
  exact h.comp (Equiv.bijective _)

/-- A swap of a place with itself changes nothing. -/
theorem permSwap_self (S : Vector Byte 256) (a : Byte) : permSwap S a a = S := by
  apply Vector.ext
  intro i hi
  have := permAt_permSwap S a a (BitVec.ofNat 8 i)
  simp only [permAt_eq, BitVec.toNat_ofNat, Nat.mod_eq_of_lt (show i < 2 ^ 8 from hi)] at this
  rw [this]
  split
  · rename_i h; subst h; simp [Nat.mod_eq_of_lt (show i < 256 from hi)]
  · rfl

theorem isPermutation_prgaStep {r : Rc4} (h : IsPermutation r.S) : IsPermutation (prgaStep r).2.S :=
  isPermutation_permSwap _ _ h

/-- KSA's loop keeps a permutation a permutation. -/
theorem isPermutation_ksaFold (K : List Byte) (l : List Nat) (st : Vector Byte 256 × Byte) (h : IsPermutation st.1) :
    IsPermutation (l.foldl (ksaStep K) st).1 := by
  induction l generalizing st with
  | nil => exact h
  | cons i l ih => exact ih _ (isPermutation_permSwap _ _ h)

theorem isPermutation_prgaRun (n : Nat) {r : Rc4} (h : IsPermutation r.S) : IsPermutation (prgaRun n r).2.S := by
  induction n generalizing r with
  | zero => exact h
  | succ n ih => exact ih (isPermutation_prgaStep h)

@[simp] theorem prgaRun_length (n : Nat) (r : Rc4) : (prgaRun n r).1.length = n := by
  induction n generalizing r with
  | zero => rfl
  | succ n ih => simp [prgaRun, ih]

/-- A run of `a + b` steps is a run of `a` and then one of `b`. -/
theorem prgaRun_add (a b : Nat) (r : Rc4) :
    prgaRun (a + b) r = ((prgaRun a r).1 ++ (prgaRun b (prgaRun a r).2).1, (prgaRun b (prgaRun a r).2).2) := by
  induction a generalizing r with
  | zero => simp [prgaRun]
  | succ a ih => rw [Nat.succ_add]; simp [prgaRun, ih]

end Sys2Proof.Machine
end

