-- ==== Sys2Proof/Laws/Stream.lean ====
section
/-! SUPPORT. What the commands leave in DBUF, byte by byte. -/

namespace Sys2Proof.Machine

/-- A byte of DBUF after a merge: merged where there is a keystream byte, as before beyond. -/
theorem mergeDbuf_getElem? (ks : Bool) (stream : List Byte) (s : State) {k : Nat} (h : k < Config.dbufBytes) :
    (mergeDbuf ks stream s).dbuf[k]? =
      if k < stream.length then some (merge (s.dbuf[k]?.getD 0) (stream.getD k 0) ks) else s.dbuf[k]? := by
  have hl : s.dbuf.toList.length = Config.dbufBytes := by simp
  have hs : s.dbuf.toList[k]? = some s.dbuf[k] := by simp [h]
  simp only [mergeDbuf, storeDbuf]
  rw [storeBytes_getElem? _ _ _ h, mergeBytes_length, mergeBytes_getElem?, hl, hs]
  by_cases hk : k < stream.length
  · simp [hk, h]
  · simp [hk]

@[simp] theorem streamPositions_length (s : State) : (streamPositions s).length = s.len.toNat := by
  simp [streamPositions]

@[simp] theorem salsaKeystream_length (s : State) : (salsaKeystream s).length = s.len.toNat := by
  simp [salsaKeystream]

@[simp] theorem chachaKeystream_length (s : State) : (chachaKeystream s).length = s.len.toNat := by
  simp [chachaKeystream]

/-- The keystream byte `k` of a SALSA20_STREAM (41_salsa20.md rule R151). -/
theorem salsaKeystream_getD (s : State) {k : Nat} (h : k < s.len.toNat) :
    (salsaKeystream s).getD k 0 = ksSalsa (selSalsa (cipherKey s) (nonceOperand s)).1
      (selSalsa (cipherKey s) (nonceOperand s)).2 (s.pos + BitVec.ofNat 70 k) := by
  generalize hf : ksSalsa (selSalsa (cipherKey s) (nonceOperand s)).1 (selSalsa (cipherKey s) (nonceOperand s)).2 = f
  simp only [salsaKeystream, hf]
  simp [streamPositions, h]

/-- The keystream byte `k` of a CHACHA20_STREAM (42_chacha20.md rule R179). -/
theorem chachaKeystream_getD (s : State) {k : Nat} (h : k < s.len.toNat) :
    (chachaKeystream s).getD k 0 = ksChacha (selChacha (cipherKey s) (nonceOperand s)).1
      (selChacha (cipherKey s) (nonceOperand s)).2 (s.pos + BitVec.ofNat 70 k) := by
  generalize hf : ksChacha (selChacha (cipherKey s) (nonceOperand s)).1 (selChacha (cipherKey s) (nonceOperand s)).2 = f
  simp only [chachaKeystream, hf]
  simp [streamPositions, h]

@[simp] theorem salsaBlock_length (s : Block) : (salsaBlock s).length = 64 := feedforward_length _ _

@[simp] theorem chachaBlock_length (s : Block) : (chachaBlock s).length = 64 := feedforward_length _ _

@[simp] theorem hsalsa20_length (K N : List Byte) : (hsalsa20 K N).length = 32 := by
  unfold hsalsa20; generalize salsaRounds (hsalsaState K N) = x; simp

@[simp] theorem hchacha20_length (K N : List Byte) : (hchacha20 K N).length = 32 := by
  unfold hchacha20; generalize chachaRounds (hchachaState K N) = x; simp

/-- RC4_KSA leaves DBUF alone. -/
theorem effectOf_dbuf_ksa (s : State) : (effectOf s .rc4Ksa).dbuf = s.dbuf := by simp [effectOf, rc4KsaEffect]

theorem effectOf_dbuf_prga (s : State) (ks : Bool) :
    (effectOf s (.rc4Prga ks)).dbuf = (mergeDbuf ks (prgaRun s.len.toNat s.rc4).1 s).dbuf := rfl

theorem effectOf_dbuf_salsa (s : State) (ks : Bool) :
    (effectOf s (.salsa20Stream ks)).dbuf = (mergeDbuf ks (salsaKeystream s) s).dbuf := by
  simp [effectOf, salsa20StreamEffect]

theorem effectOf_dbuf_chacha (s : State) (ks : Bool) :
    (effectOf s (.chacha20Stream ks)).dbuf = (mergeDbuf ks (chachaKeystream s) s).dbuf := by
  simp [effectOf, chacha20StreamEffect]

theorem effectOf_dbuf_hsalsa (s : State) :
    (effectOf s .hsalsa20).dbuf = storeBytes s.dbuf (hsalsa20 (cipherKey s) (nonce16 s)) := by
  simp [effectOf, hsalsa20Effect, storeDbuf]

theorem effectOf_dbuf_hchacha (s : State) :
    (effectOf s .hchacha20).dbuf = storeBytes s.dbuf (hchacha20 (cipherKey s) (nonce16 s)) := by
  simp [effectOf, hchacha20Effect, storeDbuf]

theorem effectOf_dbuf_salsaBlock (s : State) :
    (effectOf s .salsa20Block).dbuf = storeBytes s.dbuf (salsaBlock (blockOperand s)) := by
  simp [effectOf, salsa20BlockEffect, storeDbuf]

theorem effectOf_dbuf_chachaBlock (s : State) :
    (effectOf s .chacha20Block).dbuf = storeBytes s.dbuf (chachaBlock (blockOperand s)) := by
  simp [effectOf, chacha20BlockEffect, storeDbuf]

/-- POS after a command's effect: only the Salsa20 and ChaCha20 streams move it on. -/
theorem effectOf_pos (s : State) (i : Instr) :
    (effectOf s i).pos = match i with
      | .salsa20Stream _ | .chacha20Stream _ => s.pos + BitVec.ofNat 70 s.len.toNat
      | _ => s.pos := by
  cases i <;> simp [effectOf, rc4KsaEffect, rc4PrgaEffect, salsa20StreamEffect, hsalsa20Effect, salsa20BlockEffect,
    chacha20StreamEffect, hchacha20Effect, chacha20BlockEffect, advancePos]

/-- The RC4 state after a command's effect: only the RC4 commands change it. -/
theorem effectOf_rc4 (s : State) (i : Instr) :
    (effectOf s i).rc4 = match i with
      | .rc4Ksa => ⟨ksa (rc4Key s), 0, 0⟩
      | .rc4Prga _ => (prgaRun s.len.toNat s.rc4).2
      | _ => s.rc4 := by
  cases i <;> simp [effectOf, rc4KsaEffect, rc4PrgaEffect, salsa20StreamEffect, hsalsa20Effect, salsa20BlockEffect,
    chacha20StreamEffect, hchacha20Effect, chacha20BlockEffect]

/-- All that an effect writes. -/
theorem effectOf_eta (s : State) (i : Instr) :
    effectOf s i = { s with
      dbuf := (effectOf s i).dbuf
      pos := (effectOf s i).pos
      rc4 := (effectOf s i).rc4
      status := (effectOf s i).status } := by
  cases i <;> simp only [effectOf, rc4KsaEffect, rc4PrgaEffect, salsa20StreamEffect, hsalsa20Effect, salsa20BlockEffect,
    chacha20StreamEffect, hchacha20Effect, chacha20BlockEffect, mergeDbuf, storeDbuf, advancePos]

/-- A command that ended without ERR has passed its checks and has its effect. -/
theorem exec_done {i : Instr} {s t : State} (h : exec i s = .next t) (he : t.status.err = false) :
    firstError (checksOf s i) = none ∧ t = completeCommand (effectOf s i) := by
  rcases exec_cases h with ⟨e, _, rfl⟩ | h
  · simp at he
  · exact h

end Sys2Proof.Machine
end

