-- ==== Sys2Proof/Tests/Slice0.lean ====
section
/-! SUPPORT. Tests of the model, the expected values from spec/95_test_vectors.md or worked out by hand from the rules,
and for every statement with hypotheses a state that meets them. -/

namespace Sys2Proof.Tests

open Sys2Proof.Machine

/-! ## Helpers -/

/-- The state a step or a command answers, if it answers one. -/
def nextOf : Host.Outcome State Fault Refusal → Option State
  | .next t => some t
  | .fault _ | .refused _ => none

/-- A state with BUSY = 0 and given host events waiting. -/
def idle (q : List HostEvent) : State := { State.reset with hostQueue := q }

/-- A state in which the command `w` has been accepted, `left` accesses before its step. -/
def busy (w : Word) (left : Nat) (q : List HostEvent) : State :=
  { idle q with latchedCmd := w, status := { Status.clear with busy := true }, busyLeft := left }

/-- Operand registers set, an RC4 key scheduled. -/
def ready (keyLen : BitVec 9) (nonceLen : BitVec 5) (len : BitVec 16) (pos : Pos) : State :=
  { State.reset with
    keyLen := keyLen
    nonceLen := nonceLen
    len := len
    pos := pos
    status := { Status.clear with rc4v := true }
    rc4 := ⟨identityRom, 0, 0⟩ }

/-- A buffer that holds given bytes, the rest zero. -/
def filled (n : Nat) (bs : List Byte) : Vector Byte n := tabulate n fun k => bs.getD k 0

/-- Key 00 01 ... 1f. -/
def countingKey : List Byte := (List.range 32).map (BitVec.ofNat 8)

/-! ## Well-formed fields: one ill-formed word for each check (30_encoding.md rule R94, vectors V-DEC-4 to V-DEC-10) -/

theorem test_wf_rsv : (CmdFields.mk 0x10 false 1).wellFormed = false ∧ decode 0x00000210 = .error .rsvSet := by decide
theorem test_wf_op : (CmdFields.mk 0x13 false 0).wellFormed = false ∧ decode 0x00000013 = .error .opUnassigned := by decide
theorem test_wf_ks : (CmdFields.mk 0x11 true 0).wellFormed = false ∧ decode 0x00000111 = .error .ksNotAllowed := by decide
theorem test_wf_legal : (CmdFields.mk 0x20 true 0).wellFormed = true := by decide

theorem test_illegal_words :
    [0x00000000, 0x00000101, 0x00000111, 0x00000122, 0x00000200, 0x80000010, 0x00000013, 0x00000003, 0x000000ff].all
      (fun w => (decode w).toOption = none) = true := by decide

/-! ## Decoding: every command's word written out bit by bit, RSV KS OP (30_encoding.md rules R90, R91) -/

theorem test_decode_rc4Ksa : decode 0b00000000000000000000000_0_00000001 = .ok .rc4Ksa := by decide
theorem test_decode_rc4Prga : decode 0b00000000000000000000000_0_00000010 = .ok (.rc4Prga false) ∧
    decode 0b00000000000000000000000_1_00000010 = .ok (.rc4Prga true) := by decide
theorem test_decode_salsa20Stream : decode 0b00000000000000000000000_0_00010000 = .ok (.salsa20Stream false) ∧
    decode 0b00000000000000000000000_1_00010000 = .ok (.salsa20Stream true) := by decide
theorem test_decode_hsalsa20 : decode 0b00000000000000000000000_0_00010001 = .ok .hsalsa20 := by decide
theorem test_decode_salsa20Block : decode 0b00000000000000000000000_0_00010010 = .ok .salsa20Block := by decide
theorem test_decode_chacha20Stream : decode 0b00000000000000000000000_0_00100000 = .ok (.chacha20Stream false) ∧
    decode 0b00000000000000000000000_1_00100000 = .ok (.chacha20Stream true) := by decide
theorem test_decode_hchacha20 : decode 0b00000000000000000000000_0_00100001 = .ok .hchacha20 := by decide
theorem test_decode_chacha20Block : decode 0b00000000000000000000000_0_00100010 = .ok .chacha20Block := by decide
theorem test_decodeTableWord : decodeTableWord 32 0x120 = some (.chacha20Stream true) ∧
    decodeTableWord 32 0x101 = none := by decide

/-! ## The commands -/

/-- Three turns of KSA with "Key" = 4b 65 79, by hand from rule R120: j = 75, 177, 44. -/
theorem test_ksa_turns : (fun st : Vector Byte 256 × Byte => (st.1.toList.take 3, st.2))
    ([0, 1, 2].foldl (ksaStep [0x4b, 0x65, 0x79]) (identityRom, 0)) = ([75, 177, 44], 44) := by decide

/-- V-RC4-15: RC4_KSA with KEYLEN = 0 and 257. -/
theorem test_rc4Ksa_keyLen : (nextOf (exec .rc4Ksa (idle []))).map (·.status.word) = some 0x204 ∧
    (nextOf (exec .rc4Ksa (ready 257 0 0 0))).map (·.status.word) = some 0x20C := by decide

/-- Two PRGA steps on the identity permutation, by hand from rule R121: i = 1, j = 1, no swap, byte S[2] = 2; then
i = 2, j = 3, S[2] and S[3] swapped, byte S[5] = 5. -/
theorem test_rc4Prga_bytes : (nextOf (exec (.rc4Prga true) (ready 0 0 2 0))).map
    (fun t => (t.dbuf.toList.take 2, t.rc4.i, t.rc4.j, t.status.word)) = some ([2, 5], 2, 3, 0x0A) := by decide

/-- V-RC4-14 and V-RC4-16: NOSTATE, and LEN = 257. -/
theorem test_rc4Prga_errors : (nextOf (exec (.rc4Prga false) (idle []))).map (·.status.word) = some 0x504 ∧
    (nextOf (exec (.rc4Prga false) (ready 0 0 257 0))).map (·.status.word) = some 0x40C := by decide

/-- V-SALQ-1 and V-SALQ-2. -/
theorem test_qrSalsa : (qrSalsa 0 1 2 3 #v[1, 0, 0, 0, 0, 0, 0, 0, 0, 0, 0, 0, 0, 0, 0, 0]).toList.take 4 =
      [0x08008145, 0x00000080, 0x00010200, 0x20500000] ∧
    (qrSalsa 0 1 2 3 #v[0xe7e8c006, 0xc4f9417d, 0x6479b4b2, 0x68c67137, 0, 0, 0, 0, 0, 0, 0, 0, 0, 0, 0,
      0]).toList.take 4 = [0xe876d72b, 0x9361dfd5, 0xf1460244, 0x948541a3] := by decide

/-- V-SAL-1's first byte: key "this is 32-byte key for xsalsa20", nonce "8byte no", data "H", ciphertext 65, then
POS = 1; V-HSAL-1; V-SAL-1's input state and V-SAL-2's first sixteen bytes, through SALSA20_BLOCK on DBUF. -/
theorem test_salsa20_vectors :
    ((nextOf (exec (.salsa20Stream false) { ready 32 8 1 0 with
      key := filled 256 [0x74, 0x68, 0x69, 0x73, 0x20, 0x69, 0x73, 0x20, 0x33, 0x32, 0x2d, 0x62, 0x79, 0x74, 0x65, 0x20,
        0x6b, 0x65, 0x79, 0x20, 0x66, 0x6f, 0x72, 0x20, 0x78, 0x73, 0x61, 0x6c, 0x73, 0x61, 0x32, 0x30]
      nonce := filled 24 [0x38, 0x62, 0x79, 0x74, 0x65, 0x20, 0x6e, 0x6f]
      dbuf := filled _ [0x48] })).map (fun t => (t.dbuf.toList.take 2, t.pos, t.status.word)) =
    some ([65, 0], 1, 0x0A)) ∧
    ((hsalsa20 [0x4a, 0x5d, 0x9d, 0x5b, 0xa4, 0xce, 0x2d, 0xe1, 0x72, 0x8e, 0x3b, 0xf4, 0x80, 0x35,
      0x0f, 0x25, 0xe0, 0x7e, 0x21, 0xc9, 0x47, 0xd1, 0x9e, 0x33, 0x76, 0xf0, 0x9b, 0x3c, 0x1e, 0x16, 0x17, 0x42]
    (List.replicate 16 0)) = [0x1b, 0x27, 0x55, 0x64, 0x73, 0xe9, 0x85, 0xd4, 0x62, 0xcd, 0x51, 0x19, 0x7a, 0x9a, 0x46,
      0xc7, 0x60, 0x09, 0x54, 0x9e, 0xac, 0x64, 0x74, 0xf2, 0x06, 0xc4, 0xee, 0x08, 0x44, 0xf6, 0x83, 0x89]) ∧
    ((nextOf (exec .salsa20Block { idle [] with
      dbuf := filled _ (ser [0x61707865, 0x73696874, 0x20736920, 0x622d3233, 0x20657479, 0x3320646e, 0x74796238,
        0x6f6e2065, 0, 0, 0x79622d32, 0x2079656b, 0x20726f66, 0x6c617378, 0x30326173, 0x6b206574]) })).map
    (fun t => t.dbuf.toList.take 16) =
    some [0x09, 0xf8, 0x8c, 0xa6, 0x40, 0x6e, 0xc5, 0x4a, 0xe8, 0xb8, 0xf5, 0x73, 0x03, 0x95, 0x8a, 0x3c]) :=
  ⟨by decide +kernel, by decide +kernel, by decide +kernel⟩

/-- V-SAL-4 and V-SAL-5: the counter words of block 2^32, and POS after LEN = 8 at 2^70 - 4. -/
theorem test_salsa20_counter : (salsaState [] [] (blockIndex (0x3ffffffffc + 4)))[8] = 0 ∧
    (salsaState [] [] (blockIndex (0x3ffffffffc + 4)))[9] = 1 ∧
    (advancePos (ready 32 8 8 (-4))).pos = 4 := by decide

/-- V-SAL-14: HSALSA20 with NONCELEN = 24; the step from a due command word. -/
theorem test_hsalsa20_nonceLen : (nextOf (step { busy 0x11 0 [] with keyLen := 32, nonceLen := 24 })).map
    (·.status.word) = some 0x304 := by decide

/-- V-CHA-1. -/
theorem test_qrChacha : (qrChacha 0 1 2 3 #v[0x11111111, 0x01020304, 0x9b8d6f43, 0x01234567, 0, 0, 0, 0, 0, 0, 0, 0, 0,
    0, 0, 0]).toList.take 4 = [0xea2a92f4, 0xcb1cf8ce, 0x4581472e, 0x5881c4bb] := by decide

/-- V-CHA-8's first byte of KS = 0 over ff: 50; V-HCHA-1; V-CHA-2's state and its first sixteen bytes, through
CHACHA20_BLOCK on DBUF. -/
theorem test_chacha20_vectors :
    ((nextOf (exec (.chacha20Stream false) { ready 32 12 1 0 with
      key := filled 256 countingKey
      nonce := filled 24 [0, 0, 0, 0, 0, 0, 0, 0x4a]
      dbuf := filled _ [0xff] })).map (fun t => (t.dbuf.toList.take 2, t.pos, t.status.word)) =
    some ([0x50, 0], 1, 0x0A)) ∧
    (hchacha20 countingKey [0, 0, 0, 9, 0, 0, 0, 0x4a, 0, 0, 0, 0, 0x31, 0x41, 0x59, 0x27] =
    [0x82, 0x41, 0x3b, 0x42, 0x27, 0xb2, 0x7b, 0xfe, 0xd3, 0x0e, 0x42, 0x50, 0x8a, 0x87, 0x7d, 0x73, 0xa0, 0xf9, 0xe4,
      0xd5, 0x8a, 0x74, 0xa8, 0x53, 0xc1, 0x2e, 0xc4, 0x13, 0x26, 0xd3, 0xec, 0xdc]) ∧
    ((nextOf (exec .chacha20Block { idle [] with
      dbuf := filled _ (ser [0x61707865, 0x3320646e, 0x79622d32, 0x6b206574, 0x03020100, 0x07060504, 0x0b0a0908,
        0x0f0e0d0c, 0x13121110, 0x17161514, 0x1b1a1918, 0x1f1e1d1c, 1, 0x09000000, 0x4a000000, 0]) })).map
    (fun t => t.dbuf.toList.take 16) =
    some [0x10, 0xf1, 0xe7, 0xe4, 0xd1, 0x3b, 0x59, 0x15, 0x50, 0x0f, 0xdd, 0x1f, 0xa3, 0x20, 0x71, 0xc4]) :=
  ⟨by decide +kernel, by decide +kernel, by decide +kernel⟩

/-- V-CHA-5b, V-CHA-5c, V-CHA-10 and V-CHA-11. -/
theorem test_chacha20Stream_errors :
    (nextOf (exec (.chacha20Stream true) (ready 32 12 5 0x3ffffffffc))).map (·.status.word) = some 0x60C ∧
    (nextOf (exec (.chacha20Stream true) (ready 32 12 1 0x4000000000))).map (·.status.word) = some 0x60C ∧
    (nextOf (exec (.chacha20Stream true) (ready 32 8 1 0))).map (·.status.word) = some 0x30C ∧
    (nextOf (exec (.chacha20Stream true) (ready 16 8 257 0))).map (·.status.word) = some 0x20C := by decide

/-- V-CHA-12: HCHACHA20 with NONCELEN = 12. -/
theorem test_hchacha20_nonceLen : (nextOf (step { busy 0x21 0 [] with keyLen := 32, nonceLen := 12 })).map
    (·.status.word) = some 0x304 := by decide

/-! ## The window -/

/-- V-POS-6 and V-POS-8: BLK1, BLK0, OFFS as read. -/
theorem test_position_views :
    [0x024, 0x020, 0x028].map (fun o => locValue (ready 0 0 0 0x3fffffffff) (locate o)) = [0, 0xffffffff, 0x3f] ∧
    [0x024, 0x020, 0x028].map (fun o => locValue (ready 0 0 0 (-1)) (locate o)) = [0xffffffff, 0xffffffff, 0x3f] := by
  decide

/-- V-POS-9: POS2 written with all ones reads 0x3f. -/
theorem test_pos2_reserved_bits : (nextOf (step (idle [.write 0x01C 4 0xffffffff]))).map
    (fun t => locValue t (locate 0x01C)) = some 0x3f := by decide

/-- 20_memory.md rule R64, P1's first DBUF word "Plai". -/
theorem test_buffer_lanes : (nextOf (step (idle [.write 0x800 4 0x69616c50]))).map
    (fun t => [0x800, 0x801, 0x802, 0x803].map (bufferByte t)) =
    some [some 0x50, some 0x6c, some 0x61, some 0x69] := by decide +kernel

/-- An ILLEGAL word ends with STATUS 0x104; after P6's dropped write STATUS reads 0x11 while the command is BUSY. -/
theorem test_illegal_status : (nextOf (step (busy 0x13 0 []))).map (·.status.word) = some 0x104 ∧
    (nextOf (step (busy 0x10 1 [.write 0x010 4 4]))).map (·.status.word) = some 0x11 := by decide

/-! ## The hypotheses of the statements are met -/

theorem arrives_idle (e : HostEvent) (q : List HostEvent) : Spec.Arrives (idle (e :: q)) e q := ⟨rfl, nofun⟩

theorem arrives_busy (w : Word) (n : Nat) (e : HostEvent) (q : List HostEvent) :
    Spec.Arrives (busy w (n + 1) (e :: q)) e q := ⟨rfl, fun _ => Nat.succ_pos n⟩

theorem due_busy (w : Word) : Spec.CommandDue (busy w 0 []) := ⟨rfl, .inl rfl⟩

/-- A command whose checks pass ends without ERR. -/
theorem completes {i : Instr} {s : State} (h : firstError (checksOf s i) = none) :
    exec i s = .next (completeCommand (effectOf s i)) ∧ (completeCommand (effectOf s i)).status.err = false ∧
      (completeCommand (effectOf s i)).status.done = true := ⟨exec_completed h, by simp, by simp⟩

theorem test_witness_DecodeFollowsTheOpcodeCases :
    (0x200 : Word).toNat / 512 ≠ 0 ∧
    (∀ w ∈ ([0x01, 0x102, 0x110, 0x11, 0x12, 0x120, 0x21, 0x22] : List Word), w.toNat / 512 = 0 ∧
      w.toNat % 256 ∈ [0x01, 0x02, 0x10, 0x11, 0x12, 0x20, 0x21, 0x22]) ∧
    ((0x1ff : Word).toNat / 512 = 0 ∧ (0x1ff : Word).toNat % 256 ∉ [0x01, 0x02, 0x10, 0x11, 0x12, 0x20, 0x21, 0x22]) ∧
    Spec.CommandDue (busy 0x1ff 0 []) ∧ ∃ e, decode (busy 0x1ff 0 []).latchedCmd = .error e :=
  ⟨by simp, by simp, by simp, due_busy _, _, rfl⟩

theorem test_witness_StepRunsTheDecodedCommand :
    (Spec.CommandDue (busy 0x12 0 []) ∧ decode (busy 0x12 0 []).latchedCmd = .ok .salsa20Block) ∧
    Spec.CommandDue (busy 0x12 3 [.poll]) ∧ Spec.CommandDue (busy 0x12 0 [.write 0x010 4 4]) :=
  ⟨⟨due_busy _, rfl⟩, ⟨rfl, .inr (.inl ⟨_, rfl⟩)⟩, ⟨rfl, .inr (.inr ⟨rfl, nofun⟩)⟩⟩

theorem test_witness_IdleCoreHoldsItsState : (idle []).status.busy = false ∧ (idle []).hostQueue = [] := ⟨rfl, rfl⟩

theorem test_witness_AcceptedCommandsFinish : (busy 0x12 3 [.read 0x004 4, .write 0xFFC 4 1]).status.busy = true ∧
    (busy 0x12 3 [.read 0x004 4, .write 0xFFC 4 1]).Contracted := by
  refine ⟨rfl, fun e he => ?_⟩
  simp only [busy, idle, List.mem_cons, List.not_mem_nil, or_false] at he
  rcases he with rfl | rfl <;> decide

theorem test_witness_OnlyOutOfContractAccessesAreRefused :
    Spec.Arrives (idle [.read 0x004 2]) (.read 0x004 2) [] ∧ Spec.Arrives (busy 0x12 1 [.write 0x802 4 0])
      (.write 0x802 4 0) [] ∧ Spec.Arrives (idle [.read 4096 4]) (.read 4096 4) [] ∧
    Spec.Arrives (busy 0x12 1 [.write 4096 4 0]) (.write 4096 4 0) [] :=
  ⟨arrives_idle _ _, arrives_busy _ _ _ _, arrives_idle _ _, arrives_busy _ _ _ _⟩

/-- The first offset beyond the window is refused (20_memory.md rule R60, U7). -/
theorem test_outside_window : step (idle [.read 4096 4]) = .refused (.accessOutsideWindow 4096) := rfl

theorem test_witness_ResetLeavesTheListedRegisterValues :
    ∃ t, (busy 0x12 0 [.reset]).hostQueue = [.reset] ∧ step (busy 0x12 0 [.reset]) = .next t := ⟨_, rfl, rfl⟩

theorem test_witness_ResetTakesPrecedence : (busy 0x12 0 [.reset, .poll]).hostQueue = .reset :: [.poll] := rfl

theorem test_witness_CmdWriteAcceptsTheCommand :
    ((idle [.write 0x000 4 0x12]).hostQueue = [.write 0x000 4 0x12] ∧
      (idle [.write 0x000 4 0x12]).status.busy = false) ∧
    Spec.Arrives (busy 0x12 1 [.write 0x000 4 1]) (.write 0x000 4 1) [] ∧
      (busy 0x12 1 [.write 0x000 4 1]).status.busy = true := ⟨⟨rfl, rfl⟩, arrives_busy _ _ _ _, rfl⟩

theorem test_witness_WritesWhileBusyAreDropped : ∀ off ∈ [0x000, 0x02C, 0xFFC], off < 4096 ∧ off % 4 = 0 ∧
    Spec.Arrives (busy 0x12 1 [.write off 4 7]) (.write off 4 7) [] ∧
      (busy 0x12 1 [.write off 4 7]).status.busy = true := by
  intro off h
  refine ⟨?_, ?_, arrives_busy _ _ _ _, rfl⟩ <;> revert off <;> decide

/-- A state whose WDROP is 1. -/
def dropped (q : List HostEvent) : State := { idle q with status := { Status.clear with wdrop := true } }

theorem test_witness_WdropChangesOnlyAsRuled :
    (∃ t, step (busy 0x12 1 [.write 0 4 0]) = .next t ∧ (busy 0x12 1 [.write 0 4 0]).status.wdrop = false ∧
      t.status.wdrop = true) ∧
    (∃ t, step (dropped [.reset]) = .next t ∧ (dropped [.reset]).status.wdrop = true ∧ t.status.wdrop = false) ∧
    (∃ t, step (dropped [.write 0 4 0]) = .next t ∧ t.status.wdrop = false) ∧
    Spec.Arrives (busy 0x12 1 [.write 0 4 0]) (.write 0 4 0) [] ∧
    (∃ t, exec .salsa20Block (dropped []) = .next t) :=
  ⟨⟨_, rfl, rfl, rfl⟩, ⟨_, rfl, rfl, rfl⟩, ⟨_, rfl, rfl⟩, arrives_busy _ _ _ _, exec_next _ _⟩

/-- The clauses of the reads while BUSY, at both ends of each of their ranges. -/
theorem test_witness_ReadsWhileBusy : ∀ off ∈ [0x014, 0x028, 0x800, 0x8FC, 0x004, 0x008, 0x00C, 0x010, 0x100, 0x1FC,
      0x200, 0x214, 0x000, 0x02C, 0x0FC, 0x218, 0x7FC, 0x900, 0xFFC], off < 4096 ∧ off % 4 = 0 ∧
    Spec.Arrives (busy 0x12 1 [.read off 4]) (.read off 4) [] ∧ (busy 0x12 1 [.read off 4]).status.busy = true := by
  intro off h
  refine ⟨?_, ?_, arrives_busy _ _ _ _, rfl⟩ <;> revert off <;> decide

theorem test_witness_registerWrites : ∀ off ∈ [0x004, 0x008, 0x00C, 0x010, 0x014, 0x018, 0x01C, 0x020, 0x024, 0x028],
    (idle [.write off 4 0xffffffff]).status.busy = false ∧
      (idle [.write off 4 0xffffffff]).hostQueue = [.write off 4 0xffffffff] := fun _ _ => ⟨rfl, rfl⟩

theorem test_witness_registerReads : ∀ off ∈ [0x000, 0x008, 0x00C, 0x010, 0x014, 0x018, 0x01C, 0x020, 0x024, 0x028, 0xFFC],
    (idle [.read off 4]).status.busy = false ∧ (idle [.read off 4]).hostQueue = [.read off 4] := fun _ _ => ⟨rfl, rfl⟩

theorem test_witness_StatusWordHoldsTheFieldsInPlace :
    Spec.Arrives (busy 0x12 1 [.read 0x004 4]) (.read 0x004 4) [] ∧
    Spec.Arrives (idle [.read 0x004 4]) (.read 0x004 4) [] := ⟨arrives_busy _ _ _ _, arrives_idle _ _⟩

theorem test_witness_BufferWordsAreLittleEndian : ∀ bw ∈ [(0x100, 63), (0x200, 5), (0x800, 63)],
    ((bw.1 = 0x100 ∧ bw.2 < 64) ∨ (bw.1 = 0x200 ∧ bw.2 < 6) ∨ (bw.1 = 0x800 ∧ 4 * bw.2 < Config.dbufBytes)) ∧
    (idle [.write (bw.1 + 4 * bw.2) 4 7]).status.busy = false ∧
      (idle [.write (bw.1 + 4 * bw.2) 4 7]).hostQueue = [.write (bw.1 + 4 * bw.2) 4 7] ∧
    (idle [.read (bw.1 + 4 * bw.2) 4]).status.busy = false ∧
      (idle [.read (bw.1 + 4 * bw.2) 4]).hostQueue = [.read (bw.1 + 4 * bw.2) 4] := by
  intro bw h
  refine ⟨?_, rfl, rfl, rfl, rfl⟩
  revert bw; decide

theorem test_witness_ReservedOffsetsReadZeroAndIgnoreWrites : ∀ off ∈ [0x02C, 0x0FC, 0x218, 0x7FC, 0x900, 0xFFC],
    (off % 4 = 0 ∧ ((0x02C ≤ off ∧ off < 0x100) ∨ (0x218 ≤ off ∧ off < 0x800) ∨
      (0x800 + Config.dbufBytes ≤ off ∧ off < 0x1000))) ∧
    Spec.Arrives (idle [.read off 4]) (.read off 4) [] ∧ Spec.Arrives (busy 0x12 1 [.write off 4 7]) (.write off 4 7) [] := by
  intro off h
  refine ⟨?_, arrives_idle _ _, arrives_busy _ _ _ _⟩
  revert off; decide

theorem test_witness_LittleEndianPacking : 4 * 16 ≤ (List.replicate 64 (0 : Byte)).length ∧ 15 < 16 := by decide

theorem test_witness_PositionDecoderDividesBy64 : (ready 0 0 0 0x41).pos = 0x41 := rfl

theorem test_witness_PositionDecoderIsABijection : (intraOffset 62).toNat < 63 ∧ (intraOffset 63).toNat = 63 ∧
    (intraOffset (-1)).toNat = 63 := by decide

theorem test_witness_quarterRound : ([0, 4, 8, 12] : List (Fin 16)).Nodup ∧ ([15, 12, 13, 14] : List (Fin 16)).Nodup := by
  decide

theorem test_witness_QuarterRoundOrderDoesNotMatter :
    ([(15, 3, 7, 11), (5, 9, 13, 1), (10, 14, 2, 6), (0, 4, 8, 12)] : List (Fin 16 × Fin 16 × Fin 16 × Fin 16)).Perm
      [(0, 4, 8, 12), (5, 9, 13, 1), (10, 14, 2, 6), (15, 3, 7, 11)] ∧
    ([(15, 12, 13, 14), (5, 6, 7, 4), (10, 11, 8, 9), (0, 1, 2, 3)] : List (Fin 16 × Fin 16 × Fin 16 × Fin 16)).Perm
      [(0, 1, 2, 3), (5, 6, 7, 4), (10, 11, 8, 9), (15, 12, 13, 14)] ∧
    ([(3, 7, 11, 15), (1, 5, 9, 13), (2, 6, 10, 14), (0, 4, 8, 12)] : List (Fin 16 × Fin 16 × Fin 16 × Fin 16)).Perm
      [(0, 4, 8, 12), (1, 5, 9, 13), (2, 6, 10, 14), (3, 7, 11, 15)] ∧
    ([(3, 4, 9, 14), (1, 6, 11, 12), (2, 7, 8, 13), (0, 5, 10, 15)] : List (Fin 16 × Fin 16 × Fin 16 × Fin 16)).Perm
      [(0, 5, 10, 15), (1, 6, 11, 12), (2, 7, 8, 13), (3, 4, 9, 14)] := by decide

theorem test_witness_keyLengths : (∀ n ∈ [1, 256], 1 ≤ (List.replicate n (0 : Byte)).length ∧
      (List.replicate n (0 : Byte)).length ≤ 256) ∧ 256 < (List.replicate 257 (0 : Byte)).length ∧
    (1 ≤ (ready 1 0 0 0).keyLen.toNat ∧ (ready 256 0 0 0).keyLen.toNat ≤ 256) := by
  simp only [List.length_replicate]
  decide

/-- On the identity permutation from i = j = 0 the next step has i = j = 1. -/
theorem test_witness_PrgaStepFollowsTheRule : ∃ (i j : Nat) (S : Nat → Nat),
    i = ((⟨identityRom, 0, 0⟩ : Rc4).i.toNat + 1) % 256 ∧
    j = ((⟨identityRom, 0, 0⟩ : Rc4).j.toNat + Spec.permNat identityRom i) % 256 ∧
    S = Spec.swapAt (Spec.permNat identityRom) i j ∧ i = j := ⟨1, 1, _, by decide, by decide, rfl, rfl⟩

theorem test_witness_KsaDependsOnTheKeyAlone : ∃ t₁ t₂,
    exec .rc4Ksa (ready 256 0 0 0) = .next t₁ ∧ exec .rc4Ksa (ready 256 8 5 9) = .next t₂ ∧
    (ready 256 0 0 0).keyLen = (ready 256 8 5 9).keyLen ∧
    (∀ k < (ready 256 0 0 0).keyLen.toNat, (ready 256 0 0 0).key[k]? = (ready 256 8 5 9).key[k]?) ∧
    1 ≤ (ready 256 0 0 0).keyLen.toNat ∧ (ready 256 0 0 0).keyLen.toNat ≤ 256 := by
  obtain ⟨t₁, h₁⟩ := exec_next .rc4Ksa (ready 256 0 0 0)
  obtain ⟨t₂, h₂⟩ := exec_next .rc4Ksa (ready 256 8 5 9)
  exact ⟨t₁, t₂, h₁, h₂, rfl, fun _ _ => rfl, by decide, by decide⟩

theorem test_witness_Rc4PrgaRunsTheLoop : (ready 0 0 256 0).len.toNat ≤ Config.dbufBytes ∧
    (ready 0 0 256 0).status.rc4v = true := by decide

/-- Two full buffers, whose total is above DBUF_BYTES, and an empty command, KS mixed. -/
def chunks : List Spec.Chunk := [⟨true, 256, filled _ []⟩, ⟨false, 0, filled _ []⟩, ⟨false, 256, filled _ []⟩]

theorem test_witness_Rc4KeystreamIgnoresChunking : (ready 0 0 0 0).status.rc4v = true ∧
    (∀ c ∈ chunks, c.len.toNat ≤ Config.dbufBytes) ∧ chunks ≠ [] := by
  refine ⟨rfl, fun c h => ?_, nofun⟩
  simp only [chunks, List.mem_cons, List.not_mem_nil, or_false] at h
  rcases h with rfl | rfl | rfl <;> decide

theorem test_witness_Rc4IgnoresPositionAndNonce : (∃ t, exec .rc4Ksa (ready 3 0 0 0) = .next t) ∧
    ∃ t, exec (.rc4Prga true) (ready 3 0 9 0) = .next t := ⟨exec_next _ _, exec_next _ _⟩

theorem test_witness_Salsa20StreamRunsTheLoop : ∀ nl ∈ ([8, 24] : List (BitVec 5)),
    (ready 32 nl 256 (-4)).keyLen.toNat = 32 ∧
    ((ready 32 nl 256 (-4)).nonceLen.toNat = 8 ∨ (ready 32 nl 256 (-4)).nonceLen.toNat = 24) ∧
    (ready 32 nl 256 (-4)).len.toNat ≤ Config.dbufBytes := by decide

/-- The last legal range of V-CHA-5, and an empty range beyond the limit. -/
theorem test_witness_Chacha20StreamRunsTheLoop : ∀ s ∈ [ready 32 12 4 0x3ffffffffc, ready 32 24 0 0x4000000000],
    s.keyLen.toNat = 32 ∧ (s.nonceLen.toNat = 12 ∨ s.nonceLen.toNat = 24) ∧ s.len.toNat ≤ Config.dbufBytes ∧
    (s.len.toNat = 0 ∨ s.pos.toNat + s.len.toNat ≤ 2 ^ 38) := by
  intro s h
  simp only [List.mem_cons, List.not_mem_nil, or_false] at h
  rcases h with rfl | rfl <;> decide

theorem test_witness_SubkeyCommandsWriteTheSubkey : (ready 32 16 0 0).keyLen.toNat = 32 ∧
    (ready 32 16 0 0).nonceLen.toNat = 16 := by decide

theorem test_witness_BlockCommandsApplyTheBlockFunction :
    (blockOperand State.reset).toList = wordsLe (State.reset.dbuf.toList.take 64) 16 := by
  simp [blockOperand, blockOfBytes, wordsLe]

/-- Position 1 as byte 1 of one range and byte 0 of another; position 0 as the byte after the wrap at 2^70. -/
theorem test_witness_KeystreamByteDependsOnKeyNoncePosition :
    (∃ t₁ t₂, exec (.chacha20Stream true) (ready 32 12 2 0) = .next t₁ ∧
      exec (.chacha20Stream true) (ready 32 12 1 1) = .next t₂ ∧ t₁.status.err = false ∧ t₂.status.err = false ∧
      ((ready 32 12 2 0).pos.toNat + 1) % 2 ^ 70 = ((ready 32 12 1 1).pos.toNat + 0) % 2 ^ 70) ∧
    (∃ t₁ t₂, exec (.salsa20Stream true) (ready 32 8 2 (-1)) = .next t₁ ∧
      exec (.salsa20Stream true) (ready 32 8 1 0) = .next t₂ ∧ t₁.status.err = false ∧ t₂.status.err = false ∧
      ((ready 32 8 2 (-1)).pos.toNat + 1) % 2 ^ 70 = ((ready 32 8 1 0).pos.toNat + 0) % 2 ^ 70) := by
  have h₁ := completes (i := .chacha20Stream true) (s := ready 32 12 2 0) (by decide)
  have h₂ := completes (i := .chacha20Stream true) (s := ready 32 12 1 1) (by decide)
  have h₃ := completes (i := .salsa20Stream true) (s := ready 32 8 2 (-1)) (by decide)
  have h₄ := completes (i := .salsa20Stream true) (s := ready 32 8 1 0) (by decide)
  exact ⟨⟨_, _, h₁.1, h₂.1, h₁.2.1, h₂.2.1, by decide⟩, ⟨_, _, h₃.1, h₄.1, h₃.2.1, h₄.2.1, by decide⟩⟩

/-- Two chunks of the last legal ChaCha20 range. -/
theorem test_witness_StreamChunksContinueThePosition : ∃ t t₁ t₂ : State,
    1 + 3 ≤ Config.dbufBytes ∧
    (∀ k < 3, (filled Config.dbufBytes [])[k]? =
      ({ ready 32 12 0 0x3ffffffffc with dbuf := filled _ [] } : State).dbuf[1 + k]?) ∧
    exec (.chacha20Stream false) { ready 32 12 0 0x3ffffffffc with
      dbuf := filled _ [], len := BitVec.ofNat 16 (1 + 3) } = .next t ∧ t.status.err = false ∧
    exec (.chacha20Stream false) { ready 32 12 0 0x3ffffffffc with
      dbuf := filled _ [], len := BitVec.ofNat 16 1 } = .next t₁ ∧
    exec (.chacha20Stream false) { t₁ with len := BitVec.ofNat 16 3, dbuf := filled _ [] } = .next t₂ := by
  have h := completes (i := .chacha20Stream false) (s := { ready 32 12 0 0x3ffffffffc with
    dbuf := filled _ [], len := BitVec.ofNat 16 (1 + 3) }) (by decide)
  obtain ⟨t₁, h₁⟩ := exec_next (.chacha20Stream false) { ready 32 12 0 0x3ffffffffc with
    dbuf := filled _ [], len := BitVec.ofNat 16 1 }
  obtain ⟨t₂, h₂⟩ := exec_next (.chacha20Stream false) { t₁ with len := BitVec.ofNat 16 3, dbuf := filled _ [] }
  exact ⟨_, t₁, t₂, by decide, by decide +kernel, h.1, h.2.1, h₁, h₂⟩

theorem test_witness_SecondPassRestoresTheData :
    (∃ t u : State, exec (.salsa20Stream false) (ready 32 24 256 7) = .next t ∧ t.status.err = false ∧
      exec (.salsa20Stream false) { t with pos := (ready 32 24 256 7).pos } = .next u) ∧
    (∃ t₁ t₂ t₃ t₄ : State, exec .rc4Ksa (ready 256 0 256 0) = .next t₁ ∧ t₁.status.err = false ∧
      exec (.rc4Prga false) t₁ = .next t₂ ∧ t₂.status.err = false ∧ exec .rc4Ksa t₂ = .next t₃ ∧
      exec (.rc4Prga false) t₃ = .next t₄) := by
  have h := completes (i := .salsa20Stream false) (s := ready 32 24 256 7) (by decide)
  have h₁ := completes (i := .rc4Ksa) (s := ready 256 0 256 0) (by decide)
  have h₂ := completes (i := .rc4Prga false) (s := completeCommand (effectOf (ready 256 0 256 0) .rc4Ksa)) (by decide)
  obtain ⟨u, hu⟩ := exec_next (.salsa20Stream false)
    { completeCommand (effectOf (ready 32 24 256 7) (.salsa20Stream false)) with pos := (ready 32 24 256 7).pos }
  obtain ⟨t₃, h₃⟩ := exec_next .rc4Ksa
    (completeCommand (effectOf (completeCommand (effectOf (ready 256 0 256 0) .rc4Ksa)) (.rc4Prga false)))
  obtain ⟨t₄, h₄⟩ := exec_next (.rc4Prga false) t₃
  exact ⟨⟨_, u, h.1, h.2.1, hu⟩, ⟨_, _, t₃, t₄, h₁.1, h₁.2.1, h₂.1, h₂.2.1, h₃, h₄⟩⟩

theorem test_witness_ExtendedNonceEqualsHostComposition : (ready 32 24 256 0x3fffffff00).keyLen.toNat = 32 ∧
    (ready 32 24 256 0x3fffffff00).nonceLen.toNat = 24 ∧
    (ready 32 24 256 0x3fffffff00).len.toNat ≤ Config.dbufBytes ∧
    (ready 32 24 256 0x3fffffff00).pos.toNat + (ready 32 24 256 0x3fffffff00).len.toNat ≤ 2 ^ 38 := by decide

/-- A due command for each code, the first failing check of several among them, and one that completes. -/
theorem test_witness_FirstFailingCheckIsReported :
    (Spec.CommandDue (busy 0 0 []) ∧ ∃ e, decode (busy 0 0 []).latchedCmd = .error e) ∧
    (∀ c ∈ ([(.rc4Ksa, ready 0 0 0 0, 2), (.chacha20Stream true, ready 16 8 257 0, 2),
        (.hsalsa20, ready 32 24 0 0, 3), (.salsa20Stream false, ready 32 8 257 0, 4),
        (.rc4Prga false, { ready 0 0 0 0 with status := Status.clear }, 5),
        (.chacha20Stream false, ready 32 12 5 0x3ffffffffc, 6), (.chacha20Block, ready 0 0 0 0, 0)] :
          List (Instr × State × BitVec 4)),
      Spec.firstFailingCode c.2.1 c.1 = c.2.2 ∧
      Spec.CommandDue { c.2.1 with latchedCmd := encode c.1, status := { c.2.1.status with busy := true } }) := by
  refine ⟨⟨due_busy _, _, rfl⟩, fun c hc => ?_⟩
  simp only [List.mem_cons, List.not_mem_nil, or_false] at hc
  rcases hc with rfl | rfl | rfl | rfl | rfl | rfl | rfl <;> exact ⟨by decide, rfl, .inl rfl⟩

theorem test_witness_RejectedCommandChangesOnlyStatus : ∃ t, Spec.CommandDue (busy 0x02 0 []) ∧
    step (busy 0x02 0 []) = .next t ∧ t.status.err = true := ⟨_, due_busy _, rfl, rfl⟩

theorem test_witness_CommandsWriteOnlyTheirOwnState : ∀ i : Instr, ∃ t, exec i (ready 32 8 64 0) = .next t :=
  fun i => exec_next i _

/-- A command in progress at an invariant state, with RC4V = 1 and without. -/
theorem test_witness_StepKeepsTheInvariant : (ready 32 8 64 0).Inv ∧ (busy 0x12 0 []).Inv ∧
    (∃ t, step (busy 0x12 0 []) = .next t) ∧ ∃ t, step (ready 32 8 64 0) = .next t :=
  ⟨⟨by unfold Status.Consistent; decide, fun _ => isPermutation_identityRom⟩,
    ⟨by unfold Status.Consistent; decide, nofun⟩, step_next _ (fun _ _ h => by
      rw [nextTurn_command.2 (due_busy _)] at h; cases h), _, rfl⟩

theorem test_witness_ReachableStatesRunSafely : Reachable (issue [.reset, .poll] State.reset) ∧
    (issue [.reset, .poll] State.reset).Contracted := by
  refine ⟨.issue _ .reset, fun e he => ?_⟩
  simp only [issue, State.reset, List.nil_append, List.mem_cons, List.not_mem_nil, or_false] at he
  rcases he with rfl | rfl <;> rfl

theorem test_witness_BusyChangesOnlyAsRuled :
    (∃ t, step (idle [.write 0x000 4 0]) = .next t ∧ (idle [.write 0x000 4 0]).status.busy = false ∧
      t.status.busy = true) ∧
    (∃ t, step (busy 0x02 0 []) = .next t ∧ (busy 0x02 0 []).status.busy = true ∧ t.status.busy = false ∧
      Spec.CommandDue (busy 0x02 0 [])) ∧
    (∃ t, step (busy 0x02 0 [.reset]) = .next t ∧ t.status.busy = false) :=
  ⟨⟨_, rfl, rfl, rfl⟩, ⟨_, rfl, rfl, rfl, due_busy _⟩, ⟨_, rfl, rfl⟩⟩

/-- A due RC4_KSA of 256 key bytes at RC4V = 0. -/
def ksaDue : State := { busy 0x01 0 [] with keyLen := 256 }

theorem step_ksaDue : step ksaDue = .next (completeCommand (effectOf ksaDue .rc4Ksa)) := by
  rw [step_command (nextTurn_command.2 ⟨rfl, .inl rfl⟩)]
  exact (completes (i := .rc4Ksa) (s := ksaDue) (by decide)).1

theorem test_witness_Rc4vIsSetByKsaAlone :
    (∃ t, step ksaDue = .next t ∧ ksaDue.status.rc4v = false ∧ t.status.rc4v = true ∧ Spec.CommandDue ksaDue ∧
      decode ksaDue.latchedCmd = .ok .rc4Ksa ∧ t.status.done = true) ∧
    (∃ t, step { ready 0 0 0 0 with hostQueue := [.reset] } = .next t ∧ (ready 0 0 0 0).status.rc4v = true ∧
      t.status.rc4v = false) ∧
    (idle []).status.rc4v = false :=
  ⟨⟨_, step_ksaDue, rfl, by simp [effectOf_status], ⟨rfl, .inl rfl⟩, rfl, by simp⟩, ⟨_, rfl, rfl, rfl⟩, rfl⟩

/-- A due CHACHA20_STREAM of four bytes. -/
def streamDue : State :=
  { ready 32 12 4 0x3ffffffffc with latchedCmd := 0x120, status := { Status.clear with busy := true } }

theorem step_streamDue : step streamDue = .next (completeCommand (effectOf streamDue (.chacha20Stream true))) := by
  rw [step_command (nextTurn_command.2 ⟨rfl, .inl rfl⟩)]
  exact (completes (i := .chacha20Stream true) (s := streamDue) (by decide)).1

theorem test_witness_PosChangesOnlyAsRuled :
    (∃ t, step (idle [.write 0x014 4 7]) = .next t ∧ t.pos ≠ (idle [.write 0x014 4 7]).pos) ∧
    (∃ t, step streamDue = .next t ∧ (∀ rest, streamDue.hostQueue ≠ .reset :: rest) ∧ t.pos ≠ streamDue.pos) :=
  ⟨⟨_, rfl, by decide⟩, ⟨_, step_streamDue, nofun, by rw [completeCommand_pos, effectOf_pos]; decide⟩⟩

/-- A host write over a byte of zero, and a PRGA byte merged over it. -/
theorem test_witness_BufferBytesChangeOnlyAsRuled :
    (∃ t, step { idle [.write 0x8FC 4 0x07000000] with dbuf := filled _ [] } = .next t ∧
      bufferByte t 0x8FF ≠ bufferByte { idle [.write 0x8FC 4 0x07000000] with dbuf := filled _ [] } 0x8FF) ∧
    (∃ t, step { ready 0 0 1 0 with
        latchedCmd := 0x102
        dbuf := filled _ []
        status := ⟨true, false, false, true, false, 0⟩ } = .next t ∧
      bufferByte t 0x800 ≠ bufferByte { ready 0 0 1 0 with dbuf := filled _ [] } 0x800) :=
  ⟨⟨_, rfl, by decide +kernel⟩, ⟨_, rfl, by decide +kernel⟩⟩

theorem test_witness_LatchedCommandIsFixedWhileBusy :
    (∃ t, step (idle [.write 0x000 4 0x12]) = .next t ∧ t.latchedCmd ≠ (idle [.write 0x000 4 0x12]).latchedCmd) ∧
    (∃ t, step (busy 0x12 3 [.reset]) = .next t ∧ t.latchedCmd ≠ (busy 0x12 3 [.reset]).latchedCmd) :=
  ⟨⟨_, rfl, by decide⟩, ⟨_, rfl, by decide⟩⟩

/-- A state whose ERR is 1 with code 5. -/
def failed (q : List HostEvent) : State := { idle q with status := { Status.clear with err := true, errcode := 5 } }

theorem test_witness_ErrorStaysUntilTheNextCommand :
    (∃ t, step (busy 0x02 0 []) = .next t ∧ t.status.err ≠ (busy 0x02 0 []).status.err) ∧
    (∃ t, step (failed [.reset]) = .next t ∧ t.status.errcode ≠ (failed [.reset]).status.errcode) ∧
    (∃ t, step (failed [.write 0x000 4 0]) = .next t ∧ t.status.err ≠ (failed [.write 0x000 4 0]).status.err) :=
  ⟨⟨_, rfl, by decide⟩, ⟨_, rfl, by decide⟩, ⟨_, rfl, by decide⟩⟩

/-- The longest operands the pseudo-instructions take. -/
theorem test_witness_PseudoInstructionsSetTheOperands : State.reset.status.busy = false ∧ State.reset.hostQueue = [] ∧
    (List.replicate 256 (0 : Byte)).length ≤ 256 ∧ (List.replicate 24 (0 : Byte)).length ≤ 24 ∧
    (List.replicate 256 (0 : Byte)).length ≤ Config.dbufBytes := by
  simp only [List.length_replicate]
  exact ⟨rfl, rfl, by decide⟩

theorem test_witness_RunEndsWithTheCommandsEffect : State.reset.status.busy = false ∧ State.reset.hostQueue = [] :=
  ⟨rfl, rfl⟩

end Sys2Proof.Tests
end

section
/-! PROOFS. The byte packings of 00_scope.md rule R9 and the dispatch of a due command (family 00_scope.md). -/

namespace Sys2Proof.Machine

/-! ## `le32` and `bytes_le` -/

/-- A byte below a bit string is one more digit in base 2^8. -/
theorem toNat_append_byte {n : Nat} (x : BitVec n) (b : Byte) : (x ++ b).toNat = 2 ^ 8 * x.toNat + b.toNat := by
  rw [BitVec.toNat_append, ← Nat.shiftLeft_add_eq_or_of_lt b.isLt, Nat.shiftLeft_eq, Nat.mul_comm]

/-- `le32` as a sum: the number the four bytes write in base 2^8, `b0` the least significant digit. -/
theorem le32_toNat (b0 b1 b2 b3 : Byte) :
    (le32 b0 b1 b2 b3).toNat = b0.toNat + 2 ^ 8 * b1.toNat + 2 ^ 16 * b2.toNat + 2 ^ 24 * b3.toNat := by
  simp only [le32, toNat_append_byte]
  omega

@[simp] theorem bytesLe_le32 (b0 b1 b2 b3 : Byte) : bytesLe (le32 b0 b1 b2 b3) = [b0, b1, b2, b3] := by
  have lane (i : Nat) (b : Byte) (h : (le32 b0 b1 b2 b3).toNat / 2 ^ i % 2 ^ 8 = b.toNat) :
      (le32 b0 b1 b2 b3).extractLsb' i 8 = b :=
    BitVec.eq_of_toNat_eq (by rw [BitVec.extractLsb'_toNat, Nat.shiftRight_eq_div_pow, h])
  rw [bytesLe, lane 0 b0, lane 8 b1, lane 16 b2, lane 24 b3] <;> rw [le32_toNat] <;> omega

/-- The four lanes of a word, put together again. -/
@[simp] theorem le32_lanes (w : Word) :
    le32 (w.extractLsb' 0 8) (w.extractLsb' 8 8) (w.extractLsb' 16 8) (w.extractLsb' 24 8) = w := by
  apply BitVec.eq_of_toNat_eq
  simp only [le32_toNat, BitVec.extractLsb'_toNat, Nat.shiftRight_eq_div_pow]
  omega

/-! ## `words_le` and `ser` -/

theorem wordsLe_getElem? (B : List Byte) {n k : Nat} (h : k < n) : (wordsLe B n)[k]? = some (leWord B k) := by
  simp [wordsLe, h]

@[simp] theorem leWord_bytesLe_append_zero (w : Word) (B : List Byte) : leWord (bytesLe w ++ B) 0 = w :=
  le32_lanes w

/-- Past the first word's four bytes the words are those of the rest. -/
@[simp] theorem leWord_bytesLe_append_succ (w : Word) (B : List Byte) (k : Nat) :
    leWord (bytesLe w ++ B) (k + 1) = leWord B k := rfl

/-- `words_le` takes back what `ser` wrote, word by word. -/
@[simp] theorem wordsLe_ser (W : List Word) : wordsLe (ser W) W.length = W := by
  induction W with
  | nil => rfl
  | cons w W ih =>
    calc wordsLe (ser (w :: W)) (W.length + 1)
        = leWord (bytesLe w ++ ser W) 0 :: (List.range W.length).map fun k => leWord (bytesLe w ++ ser W) (k + 1) := by
          simp only [wordsLe, ser_cons, List.range_succ_eq_map, List.map_cons, List.map_map]; rfl
      _ = w :: wordsLe (ser W) W.length := by simp only [leWord_bytesLe_append_zero, leWord_bytesLe_append_succ, wordsLe]
      _ = w :: W := by rw [ih]

/-- Settles O20: the packings are digits in base 2^8, so each is the other's inverse, and lists follow word by word. -/
theorem littleEndianPacking : Obligations.LittleEndianPacking :=
  ⟨fun b0 b1 b2 b3 => ⟨le32_toNat b0 b1 b2 b3, bytesLe_le32 b0 b1 b2 b3⟩,
    fun w => ⟨_, _, _, _, rfl, le32_lanes w⟩,
    fun B n _ => ⟨wordsLe_length B n, fun _ hk => wordsLe_getElem? B hk⟩,
    fun W => ⟨ser_length W, wordsLe_ser W⟩⟩

/-! ## The due command -/

/-- A command's word decodes to that command (30_encoding.md rules R91, R93). -/
@[simp] theorem decode_encode (i : Instr) : decode (encode i) = .ok i := by
  rcases i with _ | (_ | _) | (_ | _) | _ | _ | (_ | _) | _ | _ <;> rfl

/-- A word is one 32-bit unit of the table's numbering. -/
@[simp] theorem tableWord_toNat (w : Word) : tableWord 32 w.toNat = w := by
  rw [tableWord, Nat.mod_eq_of_lt w.isLt, BitVec.ofNat_toNat, BitVec.setWidth_eq]

/-- When the command's turn has come and its word decodes to `i`, the step is `exec i`. -/
theorem step_decoded {s : State} {i : Instr} (hturn : nextTurn s = .command) (hd : decode s.latchedCmd = .ok i) :
    step s = exec i s := by
  rw [step_command hturn, commandStep, hd]

/-- An accepted command's word decodes to that command. -/
theorem withFetchWord_decoded (s : State) (i : Instr) :
    decode (s.withFetchWord 32 (encode i).toNat).latchedCmd = .ok i :=
  show decode (tableWord 32 (encode i).toNat) = .ok i by rw [tableWord_toNat, decode_encode]

/-- Settles O4: a due command has the turn (`nextTurn_command`), as a fetched word has (`withFetchWord_due`). -/
theorem stepRunsTheDecodedCommand : Obligations.StepRunsTheDecodedCommand :=
  ⟨fun _ _ hdue hd => step_decoded (nextTurn_command.mpr hdue) hd,
    fun s i => step_decoded (withFetchWord_due s 32 _) (withFetchWord_decoded s i)⟩

end Sys2Proof.Machine
end

section
/-! PROOFS. What a step can be, case by case, and the invariant of the CORE (family 10_state.md). -/

namespace Sys2Proof.Machine

/-! ## Whose turn it is -/

theorem nextTurn_of_idle {s : State} {e : HostEvent} {rest : List HostEvent} (hb : s.status.busy = false)
    (hq : s.hostQueue = e :: rest) : nextTurn s = .host e rest :=
  nextTurn_host.mpr ⟨hq, by simp [hb]⟩

theorem nextTurn_of_arrives {s : State} {e : HostEvent} {rest : List HostEvent} (ha : Spec.Arrives s e rest)
    (he : e ≠ .poll) : nextTurn s = .host e rest :=
  nextTurn_host.mpr ⟨ha.1, fun hb => .inr ⟨he, ha.2 hb⟩⟩

theorem nextTurn_of_reset {s : State} {rest : List HostEvent} (hq : s.hostQueue = .reset :: rest) :
    nextTurn s = .host .reset rest :=
  nextTurn_host.mpr ⟨hq, fun _ => .inl rfl⟩

/-- A step that takes an event has the event's effect. -/
theorem eq_of_step_host {s t : State} {e : HostEvent} {rest : List HostEvent} (h : step s = .next t)
    (hn : nextTurn s = .host e rest) : t = applyEvent (takeEvent rest s) e := by
  cases hp : e.problem with
  | some r => simp [step_refused hn hp] at h
  | none => rw [step_host hn hp] at h; injection h with h; exact h.symm

/-! ## What a step can be -/

/-- The ways from `s` to its next state: `step_cases` with the command's end (`exec_cases`) and the kind of the event
written out. -/
inductive StepCase (s : State) : State → Prop
  | idle (hb : s.status.busy = false) (hq : s.hostQueue = []) : StepCase s s
  | rejected (e : CmdError) (hdue : Spec.CommandDue s) : StepCase s (raiseCmdError e s)
  | completed (i : Instr) (hdue : Spec.CommandDue s) (hd : decode s.latchedCmd = .ok i)
      (hc : firstError (checksOf s i) = none) : StepCase s (completeCommand (effectOf s i))
  | reset (rest : List HostEvent) (hq : s.hostQueue = .reset :: rest) : StepCase s (resetCore (takeEvent rest s))
  | read (off : Nat) (rest : List HostEvent)
      (hq : s.hostQueue = .read off 4 :: rest ∨ (off = 0x004 ∧ s.hostQueue = .poll :: rest)) :
      StepCase s (busRead off (takeEvent rest s))
  | dropped (off : Nat) (v : Word) (rest : List HostEvent) (hq : s.hostQueue = .write off 4 v :: rest)
      (hb : s.status.busy = true) : StepCase s { Spec.taken rest s with status := s.status.dropWrite }
  | accepted (v : Word) (rest : List HostEvent) (hq : s.hostQueue = .write 0x000 4 v :: rest)
      (hb : s.status.busy = false) : StepCase s (acceptCommand v (takeEvent rest s))
  | written (off : Nat) (v : Word) (rest : List HostEvent) (hq : s.hostQueue = .write off 4 v :: rest)
      (hb : s.status.busy = false) (ha : off % 4 = 0) (hl : locate off ≠ .cmd) :
      StepCase s (writeLoc v (takeEvent rest s) (locate off))

/-- The case of a step that takes an event of the outside world. -/
theorem stepCase_applyEvent {s : State} {e : HostEvent} {rest : List HostEvent} (hq : s.hostQueue = e :: rest)
    (hp : e.problem = none) : StepCase s (applyEvent (takeEvent rest s) e) := by
  cases e with
  | read off bytes =>
    obtain ⟨rfl, -⟩ := accessProblem_none.mp hp
    exact .read off rest (.inl hq)
  | poll => exact .read 0x004 rest (.inr ⟨rfl, hq⟩)
  | reset => exact .reset rest hq
  | write off bytes v =>
    obtain ⟨rfl, ha, -⟩ := accessProblem_none.mp hp
    cases hb : s.status.busy with
    | true => rw [applyEvent, busWrite_busy (s := takeEvent rest s) off v hb]; exact .dropped off v rest hq hb
    | false =>
      rw [applyEvent, busWrite_idle (s := takeEvent rest s) off v hb]
      by_cases hl : locate off = .cmd
      · obtain rfl := locate_cmd.mp hl; exact .accepted v rest hq hb
      · exact .written off v rest hq hb ha hl

theorem stepCase_of_step {s t : State} (h : step s = .next t) : StepCase s t := by
  rcases step_cases h with ⟨hn, rfl⟩ | ⟨hn, -, rfl⟩ | ⟨hn, i, hd, hx⟩ | ⟨e, rest, hn, hp, rfl⟩
  · obtain ⟨hb, hq⟩ := nextTurn_idle.mp hn
    exact .idle hb hq
  · exact .rejected _ (nextTurn_command.mp hn)
  · rcases exec_cases hx with ⟨e, -, rfl⟩ | ⟨hc, rfl⟩
    · exact .rejected e (nextTurn_command.mp hn)
    · exact .completed i (nextTurn_command.mp hn) hd hc
  · exact stepCase_applyEvent (nextTurn_host.mp hn).1 hp

/-! ## The invariant -/

theorem Status.consistent_accept (t : Status) : t.accept.Consistent := by simp [Status.Consistent]

theorem Status.consistent_reject (e : CmdError) (t : Status) : (t.reject e).Consistent := by
  simpa [Status.Consistent] using e.code_range

theorem Status.consistent_complete (t : Status) : t.complete.Consistent := by simp [Status.Consistent]

theorem Status.consistent_clear : Status.clear.Consistent := by simp [Status.Consistent]

/-- The invariant speaks of STATUS and the RC4 state alone. -/
theorem State.Inv.congr {s t : State} (h : s.Inv) (hs : t.status = s.status) (hr : t.rc4 = s.rc4) : t.Inv := by
  rwa [State.Inv, hs, hr]

/-- The invariant where RC4V and the RC4 state are kept and STATUS is newly set. -/
theorem State.Inv.of_status {s t : State} (h : s.Inv) (ht : t.status.Consistent) (hv : t.status.rc4v = s.status.rc4v)
    (hr : t.rc4 = s.rc4) : t.Inv :=
  ⟨ht, by rw [hv, hr]; exact h.2⟩

/-- With STATUS cleared, RC4V is 0 and nothing is asked of `S`. -/
theorem State.inv_of_clear {t : State} (h : t.status = Status.clear) : t.Inv := by
  rw [State.Inv, h]; exact ⟨Status.consistent_clear, nofun⟩

theorem isPermutation_ksa (K : List Byte) : IsPermutation (ksa K) :=
  isPermutation_ksaFold K _ _ isPermutation_identityRom

/-- A completed command leaves a permutation if RC4V is 1 after it: RC4_KSA makes one, RC4_PRGA keeps RC4V and
swaps, the others leave the RC4 state alone (10_state.md rule R36). -/
theorem isPermutation_effectOf {s : State} {i : Instr} (hinv : s.Inv)
    (hv : (effectOf s i).status.rc4v = true) : IsPermutation (effectOf s i).rc4.S := by
  rw [effectOf_rc4]
  rw [effectOf_status] at hv
  cases i with
  | rc4Ksa => exact isPermutation_ksa _
  | rc4Prga ks => exact isPermutation_prgaRun _ (hinv.2 hv)
  | salsa20Stream | hsalsa20 | salsa20Block | chacha20Stream | hchacha20 | chacha20Block => exact hinv.2 hv

/-- Settles O48: each case of a step sets a consistent STATUS or keeps it, and only a completed command touches `S`
while RC4V can be 1. -/
theorem stepKeepsTheInvariant : Obligations.StepKeepsTheInvariant := by
  intro s t hinv h
  cases stepCase_of_step h with
  | idle => exact hinv
  | rejected e => exact hinv.of_status (Status.consistent_reject e _) rfl rfl
  | completed i => exact ⟨Status.consistent_complete _, isPermutation_effectOf hinv⟩
  | reset => exact State.inv_of_clear rfl
  | read => exact hinv.congr rfl rfl
  | dropped => exact hinv.of_status hinv.1 rfl rfl
  | accepted => exact hinv.of_status (Status.consistent_accept _) rfl rfl
  | written off v rest hq hb ha hl => exact hinv.congr (writeLoc_status hl) (writeLoc_rc4 _ v _)

/-- Settles O49. -/
theorem resetMeetsTheInvariant : Obligations.ResetMeetsTheInvariant :=
  ⟨State.inv_of_clear rfl, fun _ _ h => h.congr rfl rfl⟩

end Sys2Proof.Machine
end

section
/-! PROOFS. Bus accesses to the registers: what a read and a write at a register's offset do, and what each register
holds (family 10_state.md). -/

namespace Sys2Proof.Machine

/-! ## One access -/

/-- A read inside the contract answers the place's value and changes nothing of the CORE (20_memory.md rule R68). -/
theorem step_read {s : State} {off : Nat} {rest : List HostEvent} (h : Spec.Arrives s (.read off 4) rest)
    (ha : off % 4 = 0 ∧ off < 4096) : step s = .next (busRead off (takeEvent rest s)) :=
  step_host (nextTurn_of_arrives h nofun) (accessProblem_none.mpr ⟨rfl, ha⟩)

/-- A read that uses up no free value only adds to the host's log. -/
theorem busRead_takeEvent {s : State} {off : Nat} {w : Word} (rest : List HostEvent)
    (h : readValue s (locate off) = (w, s.draws)) :
    busRead off (takeEvent rest s) = { Spec.taken rest s with readLog := ⟨off, w⟩ :: s.readLog } := by
  have h' : readValue (takeEvent rest s) (locate off) = (w, s.draws) := h
  rw [busRead, h']; rfl

theorem step_read_idle {s : State} {off : Nat} {rest : List HostEvent} (hb : s.status.busy = false)
    (hq : s.hostQueue = .read off 4 :: rest) (ha : off % 4 = 0 ∧ off < 4096) :
    step s = .next { Spec.taken rest s with readLog := ⟨off, locValue s (locate off)⟩ :: s.readLog } := by
  rw [step_read ⟨hq, by simp [hb]⟩ ha, busRead_takeEvent rest (readValue_idle _ hb)]

/-- A write inside the contract while BUSY = 0 goes to its place. -/
theorem step_write_idle {s : State} {off : Nat} {v : Word} {rest : List HostEvent} (hb : s.status.busy = false)
    (hq : s.hostQueue = .write off 4 v :: rest) (ha : off % 4 = 0 ∧ off < 4096) :
    step s = .next (writeLoc v (takeEvent rest s) (locate off)) := by
  rw [step_host (nextTurn_of_idle hb hq) (accessProblem_none.mpr ⟨rfl, ha⟩), applyEvent,
    busWrite_idle (s := takeEvent rest s) off v hb]

/-- A write inside the contract while BUSY = 1 is dropped (20_memory.md rule R73). -/
theorem step_write_busy {s : State} {off : Nat} {v : Word} {rest : List HostEvent}
    (h : Spec.Arrives s (.write off 4 v) rest) (hb : s.status.busy = true) (ha : off % 4 = 0 ∧ off < 4096) :
    step s = .next { Spec.taken rest s with status := { s.status with wdrop := true } } := by
  rw [step_host (nextTurn_of_arrives h nofun) (accessProblem_none.mpr ⟨rfl, ha⟩), applyEvent,
    busWrite_busy (s := takeEvent rest s) off v hb]
  rfl

/-! ## Reset values -/

/-- Below the buffers the bus reads nothing but STATUS, the length registers and POS. -/
theorem locValue_congr_of_lt {s t : State} {off : Nat} (ho : off < 0x100) (hs : t.status = s.status)
    (hk : t.keyLen = s.keyLen) (hn : t.nonceLen = s.nonceLen) (hl : t.len = s.len) (hp : t.pos = s.pos) :
    locValue t (locate off) = locValue s (locate off) := by
  cases hloc : locate off with
  | key => have := of_locate_key hloc; omega
  | nonce => have := of_locate_nonce hloc; omega
  | dbuf => have := of_locate_dbuf hloc; omega
  | cmd | status | keyLen | nonceLen | len | pos0 | pos1 | pos2 | blk0 | blk1 | offs | reserved =>
    simp only [locValue, hs, hk, hn, hl, hp]

/-- Settles O8: the first reset and `resetCore` agree on STATUS, the lengths and POS, and the registers read these. -/
theorem resetLeavesTheListedRegisterValues : Obligations.ResetLeavesTheListedRegisterValues := by
  intro t ht
  obtain ⟨hs, hk, hn, hl, hp⟩ : t.status = Status.clear ∧ t.keyLen = 0 ∧ t.nonceLen = 0 ∧ t.len = 0 ∧ t.pos = 0 := by
    rcases ht with rfl | ⟨s, rest, hq, hstep⟩
    · exact ⟨rfl, rfl, rfl, rfl, rfl⟩
    · obtain rfl := eq_of_step_host hstep (nextTurn_of_reset hq)
      exact ⟨rfl, rfl, rfl, rfl, rfl⟩
  refine ⟨hs, hk, hn, hl, hp, fun off hoff => ?_⟩
  have hreset : off < 0x100 ∧ locValue State.reset (locate off) = 0 := by revert off; decide
  rw [readValue_idle _ (by rw [hs, Status.clear_busy]),
    locValue_congr_of_lt (s := State.reset) hreset.1 hs hk hn hl hp, hreset.2]

/-! ## CMD and STATUS -/

/-- Joining two bit strings writes a number in base `2 ^ m`. -/
theorem toNat_append_add {n m : Nat} (x : BitVec n) (y : BitVec m) : (x ++ y).toNat = 2 ^ m * x.toNat + y.toNat := by
  rw [BitVec.toNat_append, ← Nat.shiftLeft_add_eq_or_of_lt y.isLt, Nat.shiftLeft_eq, Nat.mul_comm]

/-- The fields of a command word as numbers (30_encoding.md rule R90). -/
theorem fieldsOf_toNat (v : Word) : (fieldsOf v).op.toNat = v.toNat % 256 ∧
    (fieldsOf v).ks = decide (v.toNat / 256 % 2 = 1) ∧ (fieldsOf v).rsv.toNat = v.toNat / 512 := by
  refine ⟨?_, ?_, ?_⟩
  · simp [fieldsOf]
  · exact Nat.testBit_eq_decide_div_mod_eq
  · simp only [fieldsOf, BitVec.extractLsb'_toNat, Nat.shiftRight_eq_div_pow]
    omega

/-- Settles O10. -/
theorem cmdWriteAcceptsTheCommand : Obligations.CmdWriteAcceptsTheCommand :=
  ⟨fun s => by rw [readValue_stable s (l := locate 0x000) rfl]; rfl,
    fieldsOf_toNat,
    fun _ _ _ hq hb => step_write_idle hb hq (by decide),
    fun _ _ _ h hb => step_write_busy h hb (by decide)⟩

/-- STATUS as a number: the fields at their places, 0 between them (10_state.md rule R21). -/
theorem Status.word_toNat (t : Status) : t.word.toNat =
    t.busy.toNat + 2 * t.done.toNat + 4 * t.err.toNat + 8 * t.rc4v.toNat + 16 * t.wdrop.toNat +
      256 * t.errcode.toNat := by
  simp only [Status.word, toNat_append_add, BitVec.toNat_ofBool, BitVec.ofNat_eq_ofNat, BitVec.toNat_ofNat]
  omega

/-- Settles O17: STATUS is no volatile place, so a read is the same busy or not. -/
theorem statusWordHoldsTheFieldsInPlace : Obligations.StatusWordHoldsTheFieldsInPlace :=
  ⟨Status.word_toNat,
    fun s rest h => by
      rw [step_read h (by decide), busRead_takeEvent rest (readValue_stable s (l := locate 0x004) rfl)]; rfl,
    fun _ _ _ hb hq => step_write_idle hb hq (by decide),
    rfl⟩

/-! ## POS0, POS1, POS2 -/

theorem posLow_toNat (p : Pos) : (posLow p).toNat = p.toNat % 2 ^ 32 := by simp [posLow]

theorem posMid_toNat (p : Pos) : (posMid p).toNat = p.toNat / 2 ^ 32 % 2 ^ 32 := by
  simp [posMid, Nat.shiftRight_eq_div_pow]

theorem posHigh_toNat (p : Pos) : (posHigh p).toNat = p.toNat / 2 ^ 64 := by
  simp only [posHigh, BitVec.toNat_setWidth, BitVec.extractLsb'_toNat, Nat.shiftRight_eq_div_pow]
  omega

/-- POS is POS2[5:0] ++ POS1 ++ POS0 (10_state.md rule R30). -/
theorem pos_toNat_eq (p : Pos) :
    p.toNat = (posLow p).toNat + 2 ^ 32 * (posMid p).toNat + 2 ^ 64 * (posHigh p).toNat := by
  rw [posLow_toNat, posMid_toNat, posHigh_toNat]
  omega

theorem setPosLow_toNat (v : Word) (p : Pos) : (setPosLow v p).toNat = 2 ^ 32 * (p.toNat / 2 ^ 32) + v.toNat := by
  simp only [setPosLow, toNat_append_add, BitVec.extractLsb'_toNat, Nat.shiftRight_eq_div_pow]
  omega

theorem setPosMid_toNat (v : Word) (p : Pos) :
    (setPosMid v p).toNat = 2 ^ 64 * (p.toNat / 2 ^ 64) + 2 ^ 32 * v.toNat + p.toNat % 2 ^ 32 := by
  simp only [setPosMid, toNat_append_add, BitVec.extractLsb'_toNat, Nat.shiftRight_eq_div_pow]
  omega

theorem setPosHigh_toNat (v : Word) (p : Pos) :
    (setPosHigh v p).toNat = 2 ^ 64 * (v.toNat % 64) + p.toNat % 2 ^ 64 := by
  simp only [setPosHigh, toNat_append_add, BitVec.extractLsb'_toNat, Nat.shiftRight_eq_div_pow]
  omega

/-- After a write to POS0, the three registers. -/
theorem posRegisters_setPosLow (v : Word) (p : Pos) :
    posLow (setPosLow v p) = v ∧ posMid (setPosLow v p) = posMid p ∧ posHigh (setPosLow v p) = posHigh p := by
  simp only [← BitVec.toNat_inj, posLow_toNat, posMid_toNat, posHigh_toNat, setPosLow_toNat]
  omega

/-- After a write to POS1, the three registers. -/
theorem posRegisters_setPosMid (v : Word) (p : Pos) :
    posLow (setPosMid v p) = posLow p ∧ posMid (setPosMid v p) = v ∧ posHigh (setPosMid v p) = posHigh p := by
  simp only [← BitVec.toNat_inj, posLow_toNat, posMid_toNat, posHigh_toNat, setPosMid_toNat]
  omega

/-- After a write to POS2, the three registers; it keeps six bits of the value (20_memory.md rule R63). -/
theorem posRegisters_setPosHigh (v : Word) (p : Pos) :
    posLow (setPosHigh v p) = posLow p ∧ posMid (setPosHigh v p) = posMid p ∧ posHigh (setPosHigh v p) = v % 64 := by
  simp only [← BitVec.toNat_inj, posLow_toNat, posMid_toNat, posHigh_toNat, setPosHigh_toNat, BitVec.toNat_umod,
    BitVec.reduceToNat]
  omega

/-- Settles O15. -/
theorem positionIsHeldInThreeRegisters : Obligations.PositionIsHeldInThreeRegisters := by
  have hoffs : ∀ off ∈ [0x014, 0x018, 0x01C], off % 4 = 0 ∧ off < 4096 := by decide
  refine ⟨fun s => pos_toNat_eq s.pos, fun s off rest hoff hb hq => step_read_idle hb hq (hoffs off hoff),
    fun s off v rest hoff hb hq => ⟨_, step_write_idle hb hq (hoffs off hoff), ?_⟩, rfl⟩
  simp only [List.mem_cons, List.not_mem_nil, or_false] at hoff
  rcases hoff with rfl | rfl | rfl
  · exact ⟨rfl, by simpa [locate, locValue, writeLoc] using posRegisters_setPosLow v s.pos⟩
  · exact ⟨rfl, by simpa [locate, locValue, writeLoc] using posRegisters_setPosMid v s.pos⟩
  · exact ⟨rfl, by simpa [locate, locValue, writeLoc] using posRegisters_setPosHigh v s.pos⟩

/-! ## BLK0, BLK1, OFFS -/

theorem blockIndex_toNat (q : Pos) : (blockIndex q).toNat = q.toNat / 64 := by
  simp only [blockIndex, BitVec.extractLsb'_toNat, Nat.shiftRight_eq_div_pow]
  omega

theorem intraOffset_toNat (q : Pos) : (intraOffset q).toNat = q.toNat % 64 := by simp [intraOffset]

/-- Settles O16. -/
theorem decoderViewsFollowPosition : Obligations.DecoderViewsFollowPosition := by
  refine ⟨fun s => ⟨?_, ?_, ?_⟩, fun s off v rest hoff hb => ?_⟩
  · show ((blockIndex s.pos).extractLsb' 0 32).toNat = _
    rw [BitVec.extractLsb'_toNat, blockIndex_toNat, Nat.shiftRight_zero]
  · show ((blockIndex s.pos).extractLsb' 32 32).toNat = _
    rw [BitVec.extractLsb'_toNat, blockIndex_toNat, Nat.shiftRight_eq_div_pow]
    omega
  · show ((intraOffset s.pos).setWidth 32).toNat = _
    rw [BitVec.toNat_setWidth, intraOffset_toNat]
    omega
  · simp only [List.mem_cons, List.not_mem_nil, or_false] at hoff
    rcases hoff with rfl | rfl | rfl <;>
      exact ⟨fun hq => step_read_idle hb hq (by decide), fun hq => step_write_idle hb hq (by decide)⟩

end Sys2Proof.Machine
end

section
/-! PROOFS. What changes each part of the CORE's state: the frame of the commands and of a step (family 10_state.md). -/

namespace Sys2Proof.Machine

/-! ## Buffer bytes -/

/-- A buffer byte is kept where the buffer that stands at its offset keeps its byte. -/
theorem bufferByte_eq_of {s t : State} {off : Nat} (hk : ∀ k, locate off = .key k → t.key[k]? = s.key[k]?)
    (hn : ∀ k, locate off = .nonce k → t.nonce[k]? = s.nonce[k]?)
    (hd : ∀ k, locate off = .dbuf k → t.dbuf[k]? = s.dbuf[k]?) : bufferByte t off = bufferByte s off := by
  unfold bufferByte
  cases h : locate off with
  | key k => exact hk k h
  | nonce k => exact hn k h
  | dbuf k => exact hd k h
  | cmd | status | keyLen | nonceLen | len | pos0 | pos1 | pos2 | blk0 | blk1 | offs | reserved => rfl

theorem mergeDbuf_getElem?_of_le {ks : Bool} {stream : List Byte} {s : State} {k : Nat} (hk : k < Config.dbufBytes)
    (hle : stream.length ≤ k) : (mergeDbuf ks stream s).dbuf[k]? = s.dbuf[k]? := by
  rw [mergeDbuf_getElem? ks stream s hk, if_neg (by omega)]

theorem storeBytes_getElem?_of_le {n : Nat} {X : Vector Byte n} {bs : List Byte} {k : Nat} (hk : k < n)
    (hle : bs.length ≤ k) : (storeBytes X bs)[k]? = X[k]? := by
  rw [storeBytes_getElem? X bs k hk, if_neg (by omega)]

/-- A command's effect keeps the bytes of DBUF from `dbufWritten` on (10_state.md rule R35). -/
theorem effectOf_dbuf_getElem?_of_le {s : State} {i : Instr} {k : Nat} (hk : k < Config.dbufBytes)
    (hle : Spec.dbufWritten s i ≤ k) : (effectOf s i).dbuf[k]? = s.dbuf[k]? := by
  cases i with
  | rc4Ksa => rw [effectOf_dbuf_ksa]
  | rc4Prga ks => rw [effectOf_dbuf_prga, mergeDbuf_getElem?_of_le hk (by rwa [prgaRun_length])]
  | salsa20Stream ks => rw [effectOf_dbuf_salsa, mergeDbuf_getElem?_of_le hk (by rwa [salsaKeystream_length])]
  | chacha20Stream ks => rw [effectOf_dbuf_chacha, mergeDbuf_getElem?_of_le hk (by rwa [chachaKeystream_length])]
  | hsalsa20 => rw [effectOf_dbuf_hsalsa, storeBytes_getElem?_of_le hk (by rwa [hsalsa20_length])]
  | hchacha20 => rw [effectOf_dbuf_hchacha, storeBytes_getElem?_of_le hk (by rwa [hchacha20_length])]
  | salsa20Block => rw [effectOf_dbuf_salsaBlock, storeBytes_getElem?_of_le hk (by rwa [salsaBlock_length])]
  | chacha20Block => rw [effectOf_dbuf_chachaBlock, storeBytes_getElem?_of_le hk (by rwa [chachaBlock_length])]

/-- A command's effect keeps every buffer byte outside the first `dbufWritten` bytes of DBUF. -/
theorem effectOf_bufferByte {s : State} {i : Instr} {off : Nat}
    (hout : ¬(0x800 ≤ off ∧ off < 0x800 + Spec.dbufWritten s i)) :
    bufferByte (effectOf s i) off = bufferByte s off := by
  refine bufferByte_eq_of (fun _ _ => by rw [effectOf_key]) (fun _ _ => by rw [effectOf_nonce]) fun k hloc => ?_
  obtain ⟨hlo, hhi, hk⟩ := of_locate_dbuf hloc
  exact effectOf_dbuf_getElem?_of_le (by omega) (by omega)

theorem setBufferWord_getElem?_of_not {n : Nat} {X : Vector Byte n} {k j : Nat} {v : Word} (hk : k + 3 < n)
    (hj : ¬(k ≤ j ∧ j < k + 4)) : (setBufferWord X k v)[j]? = X[j]? := by
  rw [setBufferWord_getElem? X k j v hk, if_neg hj]

/-- A bus write keeps every buffer byte outside its word (20_memory.md rule R64). -/
theorem writeLoc_bufferByte {s : State} {v : Word} {o off : Nat} (ha : o % 4 = 0) (hout : ¬(o ≤ off ∧ off < o + 4)) :
    bufferByte (writeLoc v s (locate o)) off = bufferByte s off := by
  cases hlo : locate o with
  | key k =>
    obtain ⟨hlo1, hlo2, hk⟩ := of_locate_key hlo
    show bufferByte { s with key := setBufferWord s.key k v } off = _
    refine bufferByte_eq_of (fun j hj => ?_) (fun _ _ => rfl) (fun _ _ => rfl)
    obtain ⟨hj1, hj2, hjk⟩ := of_locate_key hj
    exact setBufferWord_getElem?_of_not (by omega) (by omega)
  | nonce k =>
    obtain ⟨hlo1, hlo2, hk⟩ := of_locate_nonce hlo
    show bufferByte { s with nonce := setBufferWord s.nonce k v } off = _
    refine bufferByte_eq_of (fun _ _ => rfl) (fun j hj => ?_) (fun _ _ => rfl)
    obtain ⟨hj1, hj2, hjk⟩ := of_locate_nonce hj
    exact setBufferWord_getElem?_of_not (by omega) (by omega)
  | dbuf k =>
    obtain ⟨hlo1, hlo2, hk⟩ := of_locate_dbuf hlo
    show bufferByte { s with dbuf := setBufferWord s.dbuf k v } off = _
    refine bufferByte_eq_of (fun _ _ => rfl) (fun _ _ => rfl) (fun j hj => ?_)
    obtain ⟨hj1, hj2, hjk⟩ := of_locate_dbuf hj
    have hdvd := Config.dbufBytes_dvd
    exact setBufferWord_getElem?_of_not (by omega) (by omega)
  | cmd | status | keyLen | nonceLen | len | pos0 | pos1 | pos2 | blk0 | blk1 | offs | reserved => rfl

/-! ## The commands -/

/-- Only RC4_KSA's effect changes RC4V (10_state.md rule R25). -/
theorem effectOf_rc4v_of_ne {s : State} {i : Instr} (h : i ≠ .rc4Ksa) : (effectOf s i).status.rc4v = s.status.rc4v := by
  rw [effectOf_status, if_neg h]

@[simp] theorem effectOf_wdrop (s : State) (i : Instr) : (effectOf s i).status.wdrop = s.status.wdrop := by
  rw [effectOf_status]; split <;> rfl

theorem effectOf_pos_of_not_stream {s : State} {i : Instr}
    (h : ∀ ks, i ≠ .salsa20Stream ks ∧ i ≠ .chacha20Stream ks) : (effectOf s i).pos = s.pos := by
  rw [effectOf_pos]
  cases i with
  | salsa20Stream ks => exact absurd rfl (h ks).1
  | chacha20Stream ks => exact absurd rfl (h ks).2
  | rc4Ksa | rc4Prga | hsalsa20 | salsa20Block | hchacha20 | chacha20Block => rfl

theorem effectOf_rc4_of_not_rc4 {s : State} {i : Instr} (hp : ∀ ks, i ≠ .rc4Prga ks) (hk : i ≠ .rc4Ksa) :
    (effectOf s i).rc4 = s.rc4 := by
  rw [effectOf_rc4]
  cases i with
  | rc4Ksa => exact absurd rfl hk
  | rc4Prga ks => exact absurd rfl (hp ks)
  | salsa20Stream | hsalsa20 | salsa20Block | chacha20Stream | hchacha20 | chacha20Block => rfl

/-- Settles O47: a rejection keeps all but STATUS, and an effect's frame is known field by field. -/
theorem commandsWriteOnlyTheirOwnState : Obligations.CommandsWriteOnlyTheirOwnState := by
  intro i s t h
  rcases exec_cases h with ⟨e, -, rfl⟩ | ⟨-, rfl⟩
  · exact ⟨rfl, rfl, rfl, rfl, rfl, rfl, rfl, rfl, rfl, rfl, rfl, rfl, rfl, rfl, fun _ => rfl, fun _ _ => rfl,
      fun _ => rfl, fun off _ => bufferByte_congr rfl rfl rfl off⟩
  · exact ⟨effectOf_key s i, effectOf_nonce s i, effectOf_keyLen s i, effectOf_nonceLen s i, effectOf_len s i,
      effectOf_latchedCmd s i, effectOf_hostQueue s i, effectOf_readLog s i, effectOf_busyLeft s i,
      effectOf_accepted s i, effectOf_draws s i, effectOf_resets s i, effectOf_wdrop s i, rfl,
      effectOf_rc4v_of_ne, effectOf_rc4_of_not_rc4, effectOf_pos_of_not_stream,
      fun off hout => (bufferByte_congr rfl rfl rfl off).trans (effectOf_bufferByte hout)⟩

/-! ## The due command -/

/-- A due command ends rejected or completed; which command, its latched word says. -/
theorem cases_of_due {s t : State} (hdue : Spec.CommandDue s) (h : step s = .next t) :
    (∃ e, t = raiseCmdError e s) ∨ ∃ i, decode s.latchedCmd = .ok i ∧ t = completeCommand (effectOf s i) := by
  rw [step_command (nextTurn_command.mpr hdue), commandStep] at h
  cases hd : decode s.latchedCmd with
  | error e => rw [hd] at h; injection h with h; exact .inl ⟨_, h.symm⟩
  | ok i =>
    rw [hd] at h
    rcases exec_cases h with ⟨e, -, ht⟩ | ⟨-, ht⟩
    · exact .inl ⟨e, ht⟩
    · exact .inr ⟨i, rfl, ht⟩

/-! ## WDROP (10_state.md rule R26) -/

/-- The state with another WDROP. -/
def setWdrop (b : Bool) (s : State) : State := { s with status := { s.status with wdrop := b } }

theorem checksOf_setWdrop (b : Bool) (s : State) (i : Instr) : checksOf (setWdrop b s) i = checksOf s i := by
  cases i <;> rfl

theorem effectOf_setWdrop (b : Bool) (s : State) (i : Instr) :
    effectOf (setWdrop b s) i = setWdrop b (effectOf s i) := by
  cases i <;> rfl

/-- No command reads or writes WDROP. -/
theorem exec_setWdrop {i : Instr} {s t : State} (b : Bool) (h : exec i s = .next t) :
    exec i (setWdrop b s) = .next (setWdrop b t) := by
  rcases exec_cases h with ⟨e, hc, rfl⟩ | ⟨hc, rfl⟩
  · exact exec_rejected (by rwa [checksOf_setWdrop])
  · rw [exec_completed (by rwa [checksOf_setWdrop]), effectOf_setWdrop]; rfl

/-- Who changes WDROP in a step: a dropped write, an accepted command or reset. -/
theorem wdrop_of_stepCase {s t : State} (h : StepCase s t) :
    t.status.wdrop = s.status.wdrop ∨
    (t.status.wdrop = true ∧ s.status.busy = true ∧ ∃ (off : Nat) (v : Word) (rest : List HostEvent),
      s.hostQueue = .write off 4 v :: rest ∧ t = { Spec.taken rest s with status := { s.status with wdrop := true } }) ∨
    (t.status.wdrop = false ∧ ((∃ rest, s.hostQueue = .reset :: rest) ∨
      (s.status.busy = false ∧ ∃ (v : Word) (rest : List HostEvent), s.hostQueue = .write 0x000 4 v :: rest))) := by
  cases h with
  | idle | rejected | read => exact .inl rfl
  | completed i => exact .inl (effectOf_wdrop s i)
  | reset rest hq => exact .inr (.inr ⟨rfl, .inl ⟨rest, hq⟩⟩)
  | dropped off v rest hq hb => exact .inr (.inl ⟨rfl, hb, off, v, rest, hq, rfl⟩)
  | accepted v rest hq hb => exact .inr (.inr ⟨rfl, .inr ⟨hb, v, rest, hq⟩⟩)
  | written off v rest hq hb ha hl => exact .inl (by rw [writeLoc_status hl]; rfl)

/-- Settles O12: no command reads WDROP (`exec_setWdrop`), and `wdrop_of_stepCase` lists who writes it. -/
theorem wdropChangesOnlyAsRuled : Obligations.WdropChangesOnlyAsRuled := by
  refine ⟨fun i s t b h => exec_setWdrop b h, fun s t h => ⟨?_, ?_, ?_, ?_, ?_⟩⟩
  · intro off v rest hb harr
    rw [eq_of_step_host h (nextTurn_of_arrives harr nofun), applyEvent, busWrite_busy (s := takeEvent rest s) off v hb]
    exact ⟨rfl, rfl⟩
  · intro v rest hb hq
    rw [eq_of_step_host h (nextTurn_of_idle hb hq), applyEvent, busWrite_idle (s := takeEvent rest s) _ v hb]
    rfl
  · intro rest hq
    rw [eq_of_step_host h (nextTurn_of_reset hq)]
    rfl
  · intro h0 h1
    rcases wdrop_of_stepCase (stepCase_of_step h) with hw | ⟨-, hdropped⟩ | ⟨hw, -⟩
    · simp [hw, h0] at h1
    · exact hdropped
    · simp [hw] at h1
  · intro h1 h0
    rcases wdrop_of_stepCase (stepCase_of_step h) with hw | ⟨hw, -⟩ | ⟨-, hcleared⟩
    · simp [hw, h1] at h0
    · simp [hw] at h0
    · exact hcleared

/-! ## BUSY (10_state.md rule R22) -/

/-- Who changes BUSY in a step: an accepted command sets it, the end of a command and reset clear it. -/
theorem busy_of_stepCase {s t : State} (h : StepCase s t) :
    t.status.busy = s.status.busy ∨
    (t.status.busy = true ∧ ∃ (v : Word) (rest : List HostEvent),
      s.hostQueue = .write 0x000 4 v :: rest ∧ t.latchedCmd = v) ∨
    (t.status.busy = false ∧ (Spec.CommandDue s ∨ ∃ rest, s.hostQueue = .reset :: rest)) := by
  cases h with
  | idle | read | dropped => exact .inl rfl
  | rejected e hdue => exact .inr (.inr ⟨rfl, .inl hdue⟩)
  | completed i hdue => exact .inr (.inr ⟨rfl, .inl hdue⟩)
  | reset rest hq => exact .inr (.inr ⟨rfl, .inr ⟨rest, hq⟩⟩)
  | accepted v rest hq => exact .inr (.inl ⟨rfl, v, rest, hq, rfl⟩)
  | written off v rest hq hb ha hl => exact .inl (by rw [writeLoc_status hl]; rfl)

/-- Settles O51: `busy_of_stepCase` lists who changes BUSY; the step is that of a CMD write, a reset or a due command
where the obligation says so. -/
theorem busyChangesOnlyAsRuled : Obligations.BusyChangesOnlyAsRuled := by
  intro s t h
  refine ⟨?_, ?_, ?_, ?_, ?_⟩
  · intro h0 h1
    rcases busy_of_stepCase (stepCase_of_step h) with hb | ⟨-, hset⟩ | ⟨hb, -⟩
    · simp [hb, h0] at h1
    · exact hset
    · simp [hb] at h1
  · rintro hb ⟨v, rest, hq⟩
    rw [eq_of_step_host h (nextTurn_of_idle hb hq), applyEvent, busWrite_idle (s := takeEvent rest s) _ v hb]
    rfl
  · intro h1 h0
    rcases busy_of_stepCase (stepCase_of_step h) with hb | ⟨hb, -⟩ | ⟨-, hcleared⟩
    · simp [hb, h1] at h0
    · simp [hb] at h0
    · exact hcleared
  · rintro ⟨rest, hq⟩
    rw [eq_of_step_host h (nextTurn_of_reset hq)]
    rfl
  · intro hdue
    rcases cases_of_due hdue h with ⟨e, rfl⟩ | ⟨i, -, rfl⟩ <;> rfl

/-! ## RC4V (10_state.md rule R25) -/

/-- Who changes RC4V in a step: a completed RC4_KSA sets it, reset clears it. -/
theorem rc4v_of_stepCase {s t : State} (h : StepCase s t) :
    t.status.rc4v = s.status.rc4v ∨
    (t.status.rc4v = true ∧ Spec.CommandDue s ∧ decode s.latchedCmd = .ok .rc4Ksa ∧ t.status.done = true) ∨
    (t.status.rc4v = false ∧ ∃ rest, s.hostQueue = .reset :: rest) := by
  cases h with
  | idle | rejected | read | dropped | accepted => exact .inl rfl
  | completed i hdue hd =>
    by_cases hi : i = .rc4Ksa
    · subst hi; exact .inr (.inl ⟨rfl, hdue, hd, rfl⟩)
    · exact .inl (effectOf_rc4v_of_ne hi)
  | reset rest hq => exact .inr (.inr ⟨rfl, rest, hq⟩)
  | written off v rest hq hb ha hl => exact .inl (by rw [writeLoc_status hl]; rfl)

/-- RC4_PRGA without a key schedule is rejected: LEN is checked first, then RC4V (60_exceptions.md rule R228). -/
theorem exec_rc4Prga_of_not_rc4v {s : State} (ks : Bool) (hv : s.status.rc4v = false) :
    exec (.rc4Prga ks) s = .next (Spec.rejected (if s.len.toNat ≤ Config.dbufBytes then 5 else 4) s) := by
  have hstate : checkRc4State s = some .noState := by simp [checkRc4State, hv]
  by_cases hlen : s.len.toNat ≤ Config.dbufBytes
  · rw [exec_rejected (e := .noState) (by simp [checksOf, hstate, checkLen_none.mpr hlen]), if_pos hlen]
    rfl
  · rw [exec_rejected (e := .len) (by simp [checksOf, checkLen, hlen]), if_neg hlen]
    rfl

/-- Settles O52. -/
theorem rc4vIsSetByKsaAlone : Obligations.Rc4vIsSetByKsaAlone := by
  refine ⟨rfl, fun s t h => ⟨?_, ?_, ?_⟩, fun s ks hv => exec_rc4Prga_of_not_rc4v ks hv⟩
  · intro h0 h1
    rcases rc4v_of_stepCase (stepCase_of_step h) with hv | ⟨-, hset⟩ | ⟨hv, -⟩
    · simp [hv, h0] at h1
    · exact hset
    · simp [hv] at h1
  · intro h1 h0
    rcases rc4v_of_stepCase (stepCase_of_step h) with hv | ⟨hv, -⟩ | ⟨-, hreset⟩
    · simp [hv, h1] at h0
    · simp [hv] at h0
    · exact hreset
  · intro hdue hksa hdone
    rcases cases_of_due hdue h with ⟨e, rfl⟩ | ⟨i, hd, rfl⟩
    · simp at hdone
    · obtain rfl : Instr.rc4Ksa = i := Except.ok.inj (hksa.symm.trans hd)
      rfl

/-! ## POS (10_state.md rule R31) -/

/-- The places of POS0, POS1 and POS2 stand at their three offsets only (20_memory.md rule R61). -/
theorem offset_of_locate_pos {off : Nat} (h : locate off = .pos0 ∨ locate off = .pos1 ∨ locate off = .pos2) :
    off ∈ [0x014, 0x018, 0x01C] := by
  by_contra hoff
  simp only [List.mem_cons, List.not_mem_nil, or_false, not_or] at hoff
  obtain ⟨h0, h1, h2⟩ := hoff
  revert h
  unfold locate
  rw [if_neg h0, if_neg h1, if_neg h2]
  rintro (h | h | h) <;> revert h
  all_goals
    iterate 11 refine ite_ne nofun ?_
    nofun

/-- Settles O53: a bus write moves POS only at its registers' places, a command only if it is one of the two streams. -/
theorem posChangesOnlyAsRuled : Obligations.PosChangesOnlyAsRuled := by
  intro s t h hreset hne
  cases stepCase_of_step h with
  | idle | rejected | read | dropped | accepted => exact absurd rfl hne
  | reset rest hq => exact absurd hq (hreset rest)
  | completed i hdue hd =>
    refine .inr ⟨hdue, rfl, ?_⟩
    by_contra hnot
    refine hne (effectOf_pos_of_not_stream fun ks => ⟨?_, ?_⟩)
    · rintro rfl; exact hnot ⟨ks, .inl hd⟩
    · rintro rfl; exact hnot ⟨ks, .inr hd⟩
  | written off v rest hq hb =>
    refine .inl ⟨hb, off, v, rest, hq, offset_of_locate_pos ?_⟩
    by_contra hnot
    exact hne (writeLoc_pos (by simpa only [not_or] using hnot))

/-! ## The buffers and the latched word -/

/-- Settles O54: the bytes outside a write's word (`writeLoc_bufferByte`) and outside a command's part of DBUF
(`effectOf_bufferByte`) are kept. -/
theorem bufferBytesChangeOnlyAsRuled : Obligations.BufferBytesChangeOnlyAsRuled := by
  intro s t off h hne
  cases stepCase_of_step h with
  | idle | rejected | read | dropped | accepted => exact absurd (bufferByte_congr rfl rfl rfl off) hne
  | reset rest hq => exact .inl ⟨rest, hq⟩
  | completed i hdue hd =>
    refine .inr (.inr ⟨hdue, rfl, i, hd, ?_⟩)
    by_contra hout
    exact hne ((bufferByte_congr rfl rfl rfl off).trans (effectOf_bufferByte hout))
  | written o v rest hq hb ha =>
    refine .inr (.inl ⟨hb, o, v, rest, hq, ha, ?_⟩)
    by_contra hout
    exact hne ((writeLoc_bufferByte ha hout).trans (bufferByte_congr rfl rfl rfl off))

/-- Settles O55. -/
theorem latchedCommandIsFixedWhileBusy : Obligations.LatchedCommandIsFixedWhileBusy := by
  intro s t h hne
  cases stepCase_of_step h with
  | idle | rejected | read | dropped => exact absurd rfl hne
  | completed i => exact absurd (effectOf_latchedCmd s i) hne
  | reset rest hq => exact .inl ⟨rest, hq⟩
  | accepted v rest hq hb => exact .inr ⟨hb, rest, hq⟩
  | written off v rest hq hb ha hl => exact absurd (writeLoc_latchedCmd hl) hne

end Sys2Proof.Machine
end

section
/-! PROOFS. The window on the bus: which accesses are refused, what every offset reads and what a write there keeps
(family 20_memory.md). -/

namespace Sys2Proof.Machine

/-! ## Accesses outside the contract (20_memory.md rules R60, R67) -/

/-- An access is outside the contract if it is of another width, misaligned or outside the window. -/
theorem accessProblem_ne_none {off bytes : Nat} :
    accessProblem off bytes ≠ none ↔ bytes ≠ 4 ∨ off % 4 ≠ 0 ∨ 4096 ≤ off := by
  rw [Ne, accessProblem_none]
  omega

/-- An event that arrives and is outside the contract has no step. -/
theorem step_refused_of_arrives {s : State} {e : HostEvent} {rest : List HostEvent} (h : Spec.Arrives s e rest)
    (he : e ≠ .poll) (hp : e.problem ≠ none) : ∃ r, step s = .refused r := by
  obtain ⟨r, hr⟩ := Option.ne_none_iff_exists'.mp hp
  exact ⟨r, step_refused (nextTurn_of_arrives h he) hr⟩

/-- An event that has the turn arrives, unless it is a reset (which waits for nothing). -/
theorem arrives_of_nextTurn {s : State} {e : HostEvent} {rest : List HostEvent} (h : nextTurn s = .host e rest)
    (he : e ≠ .reset) : Spec.Arrives s e rest := by
  obtain ⟨hq, hbusy⟩ := nextTurn_host.mp h
  exact ⟨hq, fun hb => ((hbusy hb).resolve_left he).2⟩

/-- Settles O7: a state without a next state has given the turn to an event outside the contract (`step_next`), and
only reads and writes are ever outside it. -/
theorem onlyOutOfContractAccessesAreRefused : Obligations.OnlyOutOfContractAccessesAreRefused := by
  refine ⟨fun s off bytes rest hbad h => step_refused_of_arrives h nofun (accessProblem_ne_none.mpr hbad),
    fun s off bytes v rest hbad h => step_refused_of_arrives h nofun (accessProblem_ne_none.mpr hbad), fun s => ?_⟩
  refine or_iff_not_imp_left.mpr fun hnone => ?_
  obtain ⟨e, rest, hn, hp⟩ : ∃ e rest, nextTurn s = .host e rest ∧ e.problem ≠ none := by
    by_contra hall
    push Not at hall
    exact hnone (step_next s hall)
  cases e with
  | read off bytes => exact ⟨off, bytes, 0, rest, .inl (arrives_of_nextTurn hn nofun), accessProblem_ne_none.mp hp⟩
  | write off bytes v => exact ⟨off, bytes, v, rest, .inr (arrives_of_nextTurn hn nofun), accessProblem_ne_none.mp hp⟩
  | poll | reset => exact absurd rfl hp

/-- Settles O11: a write inside the contract is dropped whatever stands at its offset (`step_write_busy`). -/
theorem writesWhileBusyAreDropped : Obligations.WritesWhileBusyAreDropped :=
  fun _ _ _ _ hlt ha h hb => step_write_busy h hb ⟨ha, hlt⟩

/-! ## Reserved offsets (20_memory.md rule R62) -/

/-- Settles O19: nothing stands at these offsets (`locate_reserved`), so a read is stable and a write goes nowhere. -/
theorem reservedOffsetsReadZeroAndIgnoreWrites : Obligations.ReservedOffsetsReadZeroAndIgnoreWrites := by
  intro s off v rest ha hres
  have hloc : locate off = .reserved := locate_reserved (by omega)
  have hin : off % 4 = 0 ∧ off < 4096 := ⟨ha, by have := Config.dbufBytes_le; omega⟩
  refine ⟨fun h => ?_, fun h => ?_⟩
  · have hread : readValue s (locate off) = (0, s.draws) := by rw [hloc, readValue_stable s rfl]; rfl
    rw [step_read h hin, busRead_takeEvent rest hread]
  · cases hb : s.status.busy with
    | true => exact step_write_busy h hb hin
    | false => rw [step_write_idle hb h.1 hin, hloc]; rfl

/-! ## Reads while BUSY = 1 (20_memory.md rule R74) -/

@[simp] theorem locValue_keyLen_toNat (s : State) : (locValue s .keyLen).toNat = s.keyLen.toNat := by
  rw [locValue, BitVec.toNat_setWidth]
  omega

@[simp] theorem locValue_nonceLen_toNat (s : State) : (locValue s .nonceLen).toNat = s.nonceLen.toNat := by
  rw [locValue, BitVec.toNat_setWidth]
  omega

@[simp] theorem locValue_len_toNat (s : State) : (locValue s .len).toNat = s.len.toNat := by
  rw [locValue, BitVec.toNat_setWidth]
  omega

/-- The volatile offsets: POS0 to OFFS, and DBUF. -/
theorem isVolatile_locate {off : Nat} (ha : off % 4 = 0)
    (h : (0x014 ≤ off ∧ off < 0x02C) ∨ (0x800 ≤ off ∧ off < 0x800 + Config.dbufBytes)) :
    (locate off).isVolatile = true := by
  rcases h with ⟨hlo, hhi⟩ | ⟨hlo, hhi⟩
  · obtain rfl | rfl | rfl | rfl | rfl | rfl :
        off = 0x014 ∨ off = 0x018 ∨ off = 0x01C ∨ off = 0x020 ∨ off = 0x024 ∨ off = 0x028 := by omega
    all_goals rfl
  · rw [locate_dbuf hlo hhi]
    rfl

/-- Where nothing volatile stands, a read answers the place's value and uses up no free value. -/
theorem readValue_locate_stable (s : State) {off : Nat} {l : Loc} (hl : locate off = l) (hs : l.isVolatile = false) :
    (readValue s (locate off)).1 = locValue s l ∧ (readValue s (locate off)).2 = s.draws := by
  rw [hl, readValue_stable s hs]
  exact ⟨rfl, rfl⟩

/-- Settles O13: `isVolatile_locate` gives the offsets of the free values; everywhere else the read is stable. -/
theorem readsWhileBusy : Obligations.ReadsWhileBusy := by
  intro s off rest hlt ha h hb
  refine ⟨(readValue s (locate off)).1, (readValue s (locate off)).2, step_read h ⟨ha, hlt⟩,
    ?dbufOrPos, ?status, ?keyLen, ?nonceLen, ?len, ?key, ?nonce, ?cmdOrReserved⟩
  case dbufOrPos =>
    intro hv
    rw [readValue_volatile hb (isVolatile_locate ha hv)]
    exact ⟨rfl, rfl⟩
  case status =>
    rintro rfl
    exact readValue_locate_stable s (l := .status) rfl rfl
  case keyLen =>
    rintro rfl
    obtain ⟨hv, hd⟩ := readValue_locate_stable s (off := 0x008) (l := .keyLen) rfl rfl
    exact ⟨by rw [hv, locValue_keyLen_toNat], hd⟩
  case nonceLen =>
    rintro rfl
    obtain ⟨hv, hd⟩ := readValue_locate_stable s (off := 0x00C) (l := .nonceLen) rfl rfl
    exact ⟨by rw [hv, locValue_nonceLen_toNat], hd⟩
  case len =>
    rintro rfl
    obtain ⟨hv, hd⟩ := readValue_locate_stable s (off := 0x010) (l := .len) rfl rfl
    exact ⟨by rw [hv, locValue_len_toNat], hd⟩
  case key =>
    rintro ⟨hlo, hhi⟩
    exact readValue_locate_stable s (locate_key hlo hhi) rfl
  case nonce =>
    rintro ⟨hlo, hhi⟩
    exact readValue_locate_stable s (locate_nonce hlo hhi) rfl
  case cmdOrReserved =>
    rintro (rfl | hres)
    · exact readValue_locate_stable s (l := .cmd) rfl rfl
    · exact readValue_locate_stable s (locate_reserved hres) rfl

/-! ## Reserved bits (20_memory.md rule R63) -/

/-- STATUS has no bit above ERRCODE and none between WDROP and ERRCODE (10_state.md rule R21). -/
theorem Status.word_reserved (t : Status) : t.word.toNat < 4096 ∧ t.word.toNat / 32 % 8 = 0 := by
  rw [Status.word_toNat]
  have := t.busy.toNat_le
  have := t.done.toNat_le
  have := t.err.toNat_le
  have := t.rc4v.toNat_le
  have := t.wdrop.toNat_le
  omega

theorem locValue_offs_lt (s : State) : (locValue s .offs).toNat < 64 := by
  rw [locValue, BitVec.toNat_setWidth, intraOffset_toNat]
  omega

/-- Settles O14: an idle read is `step_read_idle`; a write stores the low bits of the value, as many as the register has,
and the read widens them with zeros. -/
theorem reservedRegisterBitsAreNotStored : Obligations.ReservedRegisterBitsAreNotStored := by
  refine ⟨fun s off rest hlt ha hb hq => ?read, fun s v rest hb => ⟨?keyLen, ?nonceLen, ?len, ?pos2⟩, fun s => ?bits⟩
  case read =>
    refine ⟨_, step_read_idle hb hq ⟨ha, hlt⟩, rfl, ?_, ?_, ?_, ?_⟩ <;> rintro rfl
    · rfl
    · exact locValue_keyLen_toNat s
    · exact locValue_nonceLen_toNat s
    · exact locValue_len_toNat s
  case keyLen =>
    exact fun hq => ⟨_, step_write_idle hb hq (by decide), rfl,
      (locValue_keyLen_toNat _).trans (BitVec.extractLsb'_toNat 0 9 v)⟩
  case nonceLen =>
    exact fun hq => ⟨_, step_write_idle hb hq (by decide), rfl,
      (locValue_nonceLen_toNat _).trans (BitVec.extractLsb'_toNat 0 5 v)⟩
  case len =>
    exact fun hq => ⟨_, step_write_idle hb hq (by decide), rfl,
      (locValue_len_toNat _).trans (BitVec.extractLsb'_toNat 0 16 v)⟩
  case pos2 =>
    refine fun hq => ⟨_, step_write_idle hb hq (by decide), rfl, ?_, ?_⟩
    · show (setPosHigh v s.pos).toNat = _
      rw [setPosHigh_toNat, Nat.add_comm]
    · show (posHigh (setPosHigh v s.pos)).toNat = _
      obtain ⟨-, -, hkept⟩ := posRegisters_setPosHigh v s.pos
      rw [hkept, BitVec.toNat_umod]
      rfl
  case bits =>
    obtain ⟨hlt, hgap⟩ := Status.word_reserved s.status
    exact ⟨hlt, hgap, locValue_offs_lt s⟩

/-! ## The lanes of the buffers (20_memory.md rule R64) -/

/-- `base` is the first offset of KEY, NONCE or DBUF, and the buffer has a word `w`. -/
def IsBufferWord (base w : Nat) : Prop :=
  (base = 0x100 ∧ w < 64) ∨ (base = 0x200 ∧ w < 6) ∨ (base = 0x800 ∧ 4 * w < Config.dbufBytes)

theorem IsBufferWord.aligned_inWindow {base w : Nat} (h : IsBufferWord base w) :
    (base + 4 * w) % 4 = 0 ∧ base + 4 * w < 4096 := by
  have := Config.dbufBytes_le
  rcases h with ⟨rfl, hw⟩ | ⟨rfl, hw⟩ | ⟨rfl, hw⟩ <;> omega

/-- The places `C 0` to `C (n - 1)` are those of KEY's, NONCE's or DBUF's `n` bytes. -/
inductive IsBuffer : (Nat → Loc) → Nat → Prop
  | key : IsBuffer .key 256
  | nonce : IsBuffer .nonce 24
  | dbuf : IsBuffer .dbuf Config.dbufBytes

/-- Where bytes from window offset `b` on are the places `C`, the four bytes of word `w` are four places in a row. -/
theorem locate_lane {C : Nat → Loc} {b lim w i : Nat} (hC : ∀ off, b ≤ off → off < lim → locate off = C (off - b))
    (h : b + 4 * w + i < lim) : locate (b + 4 * w + i) = C (4 * w + i) := by
  rw [hC _ (by omega) h]
  congr 1
  omega

/-- A buffer's word holds four bytes of that buffer. -/
theorem IsBufferWord.locate_eq {base w : Nat} (h : IsBufferWord base w) : ∃ (C : Nat → Loc) (n : Nat),
    IsBuffer C n ∧ 4 * w + 3 < n ∧ ∀ i < 4, locate (base + 4 * w + i) = C (4 * w + i) := by
  have := Config.dbufBytes_dvd
  rcases h with ⟨rfl, hw⟩ | ⟨rfl, hw⟩ | ⟨rfl, hw⟩
  · exact ⟨_, _, .key, by omega, fun i _ => locate_lane (fun _ => locate_key) (by omega)⟩
  · exact ⟨_, _, .nonce, by omega, fun i _ => locate_lane (fun _ => locate_nonce) (by omega)⟩
  · exact ⟨_, _, .dbuf, by omega, fun i _ => locate_lane (fun _ => locate_dbuf) (by omega)⟩

/-- What stands at a buffer's places: a vector whose words the bus reads, whose bytes `bufferByte` reads, and in which a
bus write sets a word. -/
theorem IsBuffer.exists_vector {C : Nat → Loc} {n : Nat} (h : IsBuffer C n) (s : State) : ∃ X : Vector Byte n,
    (∀ k, locValue s (C k) = bufferWord X k) ∧
    (∀ off k, locate off = C k → bufferByte s off = X[k]?) ∧
    ∀ v k off j, locate off = C j → bufferByte (writeLoc v s (C k)) off = (setBufferWord X k v)[j]? := by
  cases h with
  | key => exact ⟨s.key, fun _ => rfl, fun _ _ h => by rw [bufferByte, h], fun _ _ _ _ h => by rw [bufferByte, h]; rfl⟩
  | nonce =>
    exact ⟨s.nonce, fun _ => rfl, fun _ _ h => by rw [bufferByte, h], fun _ _ _ _ h => by rw [bufferByte, h]; rfl⟩
  | dbuf =>
    exact ⟨s.dbuf, fun _ => rfl, fun _ _ h => by rw [bufferByte, h], fun _ _ _ _ h => by rw [bufferByte, h]; rfl⟩

/-- A bus write to a buffer changes the buffers alone. -/
theorem IsBuffer.writeLoc_eq {C : Nat → Loc} {n : Nat} (h : IsBuffer C n) (v : Word) (s : State) (k : Nat) :
    writeLoc v s (C k) = { s with
      key := (writeLoc v s (C k)).key, nonce := (writeLoc v s (C k)).nonce, dbuf := (writeLoc v s (C k)).dbuf } := by
  cases h <;> rfl

/-- The word of a buffer at `X[k]`, as the number its four bytes write in base 2^8. -/
theorem bufferWord_eq_ofNat {n : Nat} (X : Vector Byte n) {k : Nat} (h : k + 3 < n) :
    bufferWord X k = BitVec.ofNat 32
      (X[k].toNat + 2 ^ 8 * X[k + 1].toNat + 2 ^ 16 * X[k + 2].toNat + 2 ^ 24 * X[k + 3].toNat) := by
  rw [← le32_toNat, BitVec.ofNat_toNat, BitVec.setWidth_eq]
  simp only [bufferWord, Vector.getElem?_eq_getElem, h, show k < n by omega, show k + 1 < n by omega,
    show k + 2 < n by omega, Option.getD_some]

/-- A bus read inside a buffer packs the four bytes at its offset. -/
theorem IsBufferWord.read {base w : Nat} (h : IsBufferWord base w) (s : State) : ∃ b0 b1 b2 b3 : Byte,
    bufferByte s (base + 4 * w) = some b0 ∧ bufferByte s (base + 4 * w + 1) = some b1 ∧
    bufferByte s (base + 4 * w + 2) = some b2 ∧ bufferByte s (base + 4 * w + 3) = some b3 ∧
    locValue s (locate (base + 4 * w)) =
      BitVec.ofNat 32 (b0.toNat + 2 ^ 8 * b1.toNat + 2 ^ 16 * b2.toNat + 2 ^ 24 * b3.toNat) := by
  obtain ⟨C, n, hbuf, hn, hloc⟩ := h.locate_eq
  obtain ⟨X, hword, hbyte, -⟩ := hbuf.exists_vector s
  have byte (i : Nat) (hi : i < 4) : bufferByte s (base + 4 * w + i) = some X[4 * w + i] := by
    rw [hbyte _ _ (hloc i hi), Vector.getElem?_eq_getElem]
  have hstart : locate (base + 4 * w) = C (4 * w) := hloc 0 (by decide)
  refine ⟨_, _, _, _, byte 0 (by decide), byte 1 (by decide), byte 2 (by decide), byte 3 (by decide), ?_⟩
  rw [hstart, hword]
  exact bufferWord_eq_ofNat X hn

/-- A bus write inside a buffer sets each of the four bytes at its offset to its lane of the word. -/
theorem IsBufferWord.write {base w i : Nat} (h : IsBufferWord base w) (s : State) (v : Word) (hi : i < 4) :
    bufferByte (writeLoc v s (locate (base + 4 * w))) (base + 4 * w + i) =
      some (BitVec.ofNat 8 (v.toNat / 2 ^ (8 * i))) := by
  obtain ⟨C, n, hbuf, hn, hloc⟩ := h.locate_eq
  obtain ⟨X, -, -, hwrite⟩ := hbuf.exists_vector s
  have hstart : locate (base + 4 * w) = C (4 * w) := hloc 0 (by decide)
  rw [hstart, hwrite _ _ _ _ (hloc i hi), setBufferWord_getElem? X _ _ v hn, if_pos (by omega), Nat.add_sub_cancel_left,
    ← Nat.shiftRight_eq_div_pow]
  rfl

/-! ## The output of SALSA20_BLOCK in DBUF -/

theorem leWord_ser {W : List Word} {k : Nat} (h : k < W.length) : leWord (ser W) k = W[k] := by
  have hk := wordsLe_getElem? (ser W) h
  rw [wordsLe_ser, List.getElem?_eq_getElem h] at hk
  exact (Option.some.inj hk).symm

/-- The words of the feedforward (41_salsa20.md rule R146). -/
theorem leWord_feedforward (x s : Block) (k : Fin 16) : leWord (feedforward x s) k = x[k] + s[k] := by
  rw [feedforward, leWord_ser (by simp)]
  simp

/-- The bus words of what a command stored are `words_le` of it. -/
theorem bufferWord_storeBytes {n k : Nat} (X : Vector Byte n) {bs : List Byte} (hn : bs.length ≤ n)
    (hk : 4 * k + 3 < bs.length) : bufferWord (storeBytes X bs) (4 * k) = leWord bs k := by
  have byte (j : Nat) (hj : j < bs.length) : (storeBytes X bs)[j]?.getD 0 = bs.getD j 0 := by
    rw [storeBytes_getElem? X bs j (by omega), if_pos hj, List.getD_eq_getElem?_getD]
  rw [bufferWord, leWord, byte _ (by omega), byte _ (by omega), byte _ (by omega), byte _ hk]

/-- After SALSA20_BLOCK the bus reads word `k` of the block at DBUF word `k` (41_salsa20.md rule R153). -/
theorem exec_salsa20Block_word (s : State) : ∃ t, exec .salsa20Block s = .next t ∧
    ∀ k : Fin 16, locValue t (locate (0x800 + 4 * k.val)) =
      (salsaRounds (blockOperand s))[k] + (blockOperand s)[k] := by
  refine ⟨_, exec_completed rfl, fun k => ?_⟩
  have := Config.dbufBytes_ge
  rw [locate_dbuf (by omega) (by omega), Nat.add_sub_cancel_left, locValue, completeCommand_dbuf,
    effectOf_dbuf_salsaBlock, bufferWord_storeBytes _ (by rwa [salsaBlock_length]) (by rw [salsaBlock_length]; omega),
    salsaBlock, leWord_feedforward]

/-- Settles O18: a buffer's word is four bytes of one vector (`IsBufferWord.locate_eq`, `IsBuffer.exists_vector`), and
the words of a block command's output are its feedforward sums. -/
theorem bufferWordsAreLittleEndian : Obligations.BufferWordsAreLittleEndian := by
  refine ⟨fun s base w rest hw hb hq => ?_, fun s base w v rest hw hb hq => ?_, exec_salsa20Block_word⟩
  · have hw : IsBufferWord base w := hw
    obtain ⟨b0, b1, b2, b3, h0, h1, h2, h3, hval⟩ := hw.read s
    exact ⟨b0, b1, b2, b3, h0, h1, h2, h3, by rw [step_read_idle hb hq hw.aligned_inWindow, hval]⟩
  · have hw : IsBufferWord base w := hw
    obtain ⟨C, n, hbuf, -, hloc⟩ := hw.locate_eq
    have hstart : locate (base + 4 * w) = C (4 * w) := hloc 0 (by decide)
    refine ⟨_, step_write_idle hb hq hw.aligned_inWindow, ?_, fun i hi => hw.write _ v hi, fun a hout => ?_⟩
    · rw [hstart]
      exact hbuf.writeLoc_eq v (takeEvent rest s) (4 * w)
    · rw [writeLoc_bufferByte hw.aligned_inWindow.1 hout]
      exact bufferByte_congr rfl rfl rfl a

end Sys2Proof.Machine
end

section
/-! PROOFS. The decoder as the case table of 30_encoding.md rule R93 and as the encoder's inverse, and the command words
(family 30_encoding.md). -/

namespace Sys2Proof.Machine

/-! ## A word and its fields (30_encoding.md rule R90) -/

/-- A word is read back from its fields: they cover every bit of it. -/
theorem wordOf_fieldsOf (w : Word) : wordOf (fieldsOf w) = w := by
  obtain ⟨hop, hks, hrsv⟩ := fieldsOf_toNat w
  have hbit : (decide (w.toNat / 256 % 2 = 1)).toNat = w.toNat / 256 % 2 := by
    rcases Nat.mod_two_eq_zero_or_one (w.toNat / 256) with h | h <;> simp [h]
  apply BitVec.eq_of_toNat_eq
  rw [wordOf, toNat_append_add, toNat_append_add, BitVec.toNat_ofBool, hop, hks, hrsv, hbit]
  omega

theorem decodePlain_eq_ok {ks : Bool} {i j : Instr} : decodePlain ks i = .ok j ↔ ks = false ∧ i = j := by
  cases ks <;> simp [decodePlain]

/-- What the decoder answers a command for has that command's fields. -/
theorem fieldsOf_of_decode {w : Word} {i : Instr} (h : decode w = .ok i) : fieldsOf w = i.fields := by
  unfold decode at h
  generalize fieldsOf w = f at h
  obtain ⟨op, ks, rsv⟩ := f
  dsimp only at h
  split_ifs at h with hrsv
  all_goals obtain rfl : rsv = 0 := not_not.mp hrsv
  all_goals obtain rfl := ‹op = _›
  · obtain ⟨rfl, rfl⟩ := decodePlain_eq_ok.mp h; rfl
  · cases h; rfl
  · cases h; rfl
  · obtain ⟨rfl, rfl⟩ := decodePlain_eq_ok.mp h; rfl
  · obtain ⟨rfl, rfl⟩ := decodePlain_eq_ok.mp h; rfl
  · cases h; rfl
  · obtain ⟨rfl, rfl⟩ := decodePlain_eq_ok.mp h; rfl
  · obtain ⟨rfl, rfl⟩ := decodePlain_eq_ok.mp h; rfl

theorem eq_encode_of_fieldsOf {w : Word} {i : Instr} (h : fieldsOf w = i.fields) : w = encode i := by
  rw [encode, ← h, wordOf_fieldsOf]

/-- Settles O2: the decoder reads a command off a word's fields, and the fields determine the word. -/
theorem decodeIsTheInverseOfEncode : Obligations.DecodeIsTheInverseOfEncode := by
  refine fun w i => ⟨fun h => eq_encode_of_fieldsOf (fieldsOf_of_decode h), ?_⟩
  rintro rfl
  exact decode_encode i

/-! ## The case table (30_encoding.md rules R93, R94) -/

theorem fields_wellFormed (i : Instr) : i.fields.wellFormed = true := by
  rcases i with _ | (_ | _) | (_ | _) | _ | _ | (_ | _) | _ | _ <;> rfl

/-- A word whose fields are ill-formed decodes to no command. -/
theorem decode_error_of_not_wellFormed {w : Word} (h : (fieldsOf w).wellFormed = false) : ∃ e, decode w = .error e := by
  cases hd : decode w with
  | error e => exact ⟨e, rfl⟩
  | ok i => rw [fieldsOf_of_decode hd, fields_wellFormed i] at h; cases h

/-- A word with a command's fields, given as numbers, decodes to that command. -/
theorem decode_ok_of_toNat {w : Word} {i : Instr} (hrsv : w.toNat / 512 = i.fields.rsv.toNat)
    (hop : w.toNat % 256 = i.fields.op.toNat) (hks : decide (w.toNat / 256 % 2 = 1) = i.fields.ks) :
    decode w = .ok i := by
  obtain ⟨fop, fks, frsv⟩ := fieldsOf_toNat w
  have hf : fieldsOf w = i.fields := by
    rw [CmdFields.mk.injEq (fieldsOf w).op]
    exact ⟨BitVec.toNat_inj.mp (fop.trans hop), fks.trans hks, BitVec.toNat_inj.mp (frsv.trans hrsv)⟩
  rw [eq_encode_of_fieldsOf hf, decode_encode]

theorem not_wellFormed_of_rsv {w : Word} (h : w.toNat / 512 ≠ 0) : (fieldsOf w).wellFormed = false := by
  obtain ⟨-, -, frsv⟩ := fieldsOf_toNat w
  have hrsv : (fieldsOf w).rsvClear = false := beq_eq_false_iff_ne.mpr fun h0 => h (by rw [← frsv, h0]; rfl)
  rw [CmdFields.wellFormed, hrsv, Bool.false_and, Bool.false_and]

theorem not_wellFormed_of_op {w : Word} (h : w.toNat % 256 ∉ [0x01, 0x02, 0x10, 0x11, 0x12, 0x20, 0x21, 0x22]) :
    (fieldsOf w).wellFormed = false := by
  obtain ⟨fop, -, -⟩ := fieldsOf_toNat w
  have hop : (fieldsOf w).opAssigned = false := by
    rw [← fop] at h
    simp_all [CmdFields.opAssigned, CmdFields.streamOps, CmdFields.plainOps, ← BitVec.toNat_inj]
  rw [CmdFields.wellFormed, hop, Bool.and_false, Bool.false_and]

theorem not_wellFormed_of_ks {w : Word} {op : BitVec 8} (hop : w.toNat % 256 = op.toNat)
    (hplain : CmdFields.streamOps.contains op = false) (hks : w.toNat / 256 % 2 ≠ 0) :
    (fieldsOf w).wellFormed = false := by
  obtain ⟨fop, fks, -⟩ := fieldsOf_toNat w
  have hallowed : (fieldsOf w).ksAllowed = false := by
    rw [CmdFields.ksAllowed, fks, BitVec.toNat_inj.mp (fop.trans hop), hplain, decide_eq_true (by omega)]
    rfl
  rw [CmdFields.wellFormed, hallowed, Bool.and_false]

/-- A command without KS: its opcode decodes to it with KS = 0 and is illegal with KS = 1. -/
theorem decode_plain {w : Word} {i : Instr} (hrsv : w.toNat / 512 = 0) (hop : w.toNat % 256 = i.fields.op.toNat)
    (hi : i.fields.rsv = 0 ∧ i.fields.ks = false ∧ CmdFields.streamOps.contains i.fields.op = false) :
    if w.toNat / 256 % 2 = 0 then decode w = .ok i else ∃ e, decode w = .error e := by
  obtain ⟨irsv, iks, hplain⟩ := hi
  split
  case isTrue hks => exact decode_ok_of_toNat (by rw [hrsv, irsv]; rfl) hop (by rw [iks]; simp [hks])
  case isFalse hks => exact decode_error_of_not_wellFormed (not_wellFormed_of_ks hop hplain hks)

/-- A due command whose word is ILLEGAL is rejected (60_exceptions.md rule R222). -/
theorem step_illegal {s : State} {e : Illegal} (hdue : Spec.CommandDue s) (hd : decode s.latchedCmd = .error e) :
    step s = .next (raiseCmdError .illegal s) := by
  rw [step_command (nextTurn_command.mpr hdue), commandStep, hd]

/-- Settles O3: a legal case by its fields' numbers (`decode_ok_of_toNat`), an illegal one by the check of rule R94 that
fails. -/
theorem decodeFollowsTheOpcodeCases : Obligations.DecodeFollowsTheOpcodeCases := by
  refine ⟨fun w => ⟨fun hrsv => decode_error_of_not_wellFormed (not_wellFormed_of_rsv hrsv), fun hrsv =>
    ⟨fun hop => decode_plain hrsv hop (by decide), fun hop => decode_ok_of_toNat hrsv hop rfl,
      fun hop => decode_ok_of_toNat hrsv hop rfl, fun hop => decode_plain hrsv hop (by decide),
      fun hop => decode_plain hrsv hop (by decide), fun hop => decode_ok_of_toNat hrsv hop rfl,
      fun hop => decode_plain hrsv hop (by decide), fun hop => decode_plain hrsv hop (by decide),
      fun hop => decode_error_of_not_wellFormed (not_wellFormed_of_op hop)⟩⟩, ?_⟩
  rintro s hdue ⟨e, hd⟩
  exact step_illegal hdue hd

/-! ## The command words (30_encoding.md rule R101) -/

/-- Settles O1: the words by evaluation, and the four decodings are of words of commands (`decode_encode`). -/
theorem commandWordsAreTheListedOnes : Obligations.CommandWordsAreTheListedOnes :=
  ⟨rfl, rfl, rfl, rfl, rfl, rfl, rfl, rfl, rfl, rfl, rfl, rfl, rfl, rfl,
    decode_encode .rc4Ksa, decode_encode (.rc4Prga true), decode_encode .salsa20Block,
    decode_encode (.chacha20Stream true)⟩

end Sys2Proof.Machine
end

section
/-! PROOFS. The host's assembly language run from an idle CORE: the register symbols, the pseudo-instructions that set the
operands, and `run` (family 30_encoding.md). -/

namespace Sys2Proof.Machine

open HostAsm

/-- Settles O57: the symbols' offsets and the window's map, by evaluation. -/
theorem registerSymbolOffsets : Obligations.RegisterSymbolOffsets := ⟨rfl, rfl⟩

/-! ## One issued access -/

@[simp] theorem issue_nil (s : State) : issue [] s = s := by simp [issue]

/-- A bus write does not look at the accesses that wait behind it. -/
theorem writeLoc_issue (q : List HostEvent) (v : Word) (s : State) (l : Loc) :
    writeLoc v (issue q s) l = issue q (writeLoc v s l) := by cases l <;> rfl

/-- An idle CORE after the host's word write to a place. -/
def hostWrote (v : Word) (l : Loc) (s : State) : State := writeLoc v { s with busyLeft := s.busyLeft - 1 } l

/-- A word write issued to an idle CORE with a silent host goes to its place. -/
theorem step_issue_wr {s : State} {r : Sym} {plus : Nat} {v : Word} {rest : List HostEvent} {l : Loc}
    (hb : s.status.busy = false) (hq : s.hostQueue = []) (ha : (symOffset r + plus) % 4 = 0 ∧ symOffset r + plus < 4096)
    (hl : locate (symOffset r + plus) = l) :
    step (issue (wr r plus v :: rest) s) = .next (issue rest (hostWrote v l s)) := by
  have htake : takeEvent rest (issue (wr r plus v :: rest) s) = issue rest { s with busyLeft := s.busyLeft - 1 } := by
    simp [takeEvent, issue, hq]
  have hqueue : (issue (wr r plus v :: rest) s).hostQueue = wr r plus v :: rest := by rw [issue_hostQueue, hq]; rfl
  rw [step_write_idle (s := issue _ s) hb hqueue ha, hl, htake, writeLoc_issue, hostWrote]

/-! ## The word writes of a byte string -/

/-- A buffer after the first `m` word writes of `b` at its start (30_encoding.md rule R100). -/
def writeWords {n : Nat} (X : Vector Byte n) (b : List Byte) : Nat → Vector Byte n
  | 0 => X
  | m + 1 => setBufferWord (writeWords X b m) (4 * m) (leWord b m)

/-- The lanes of a word of a byte string; bytes beyond its end are 0. -/
theorem leWord_lane (b : List Byte) (w : Nat) {i : Nat} (hi : i < 4) :
    (leWord b w).extractLsb' (8 * i) 8 = b.getD (4 * w + i) 0 := by
  have hlanes := bytesLe_le32 (b.getD (4 * w) 0) (b.getD (4 * w + 1) 0) (b.getD (4 * w + 2) 0) (b.getD (4 * w + 3) 0)
  simp only [bytesLe, List.cons.injEq, and_true] at hlanes
  obtain ⟨h0, h1, h2, h3⟩ := hlanes
  obtain rfl | rfl | rfl | rfl : i = 0 ∨ i = 1 ∨ i = 2 ∨ i = 3 := by omega
  · exact h0
  · exact h1
  · exact h2
  · exact h3

theorem writeWords_getElem? {n : Nat} (X : Vector Byte n) (b : List Byte) {m : Nat} (hm : 4 * m ≤ n) (k : Nat) :
    (writeWords X b m)[k]? = if k < 4 * m then some (b.getD k 0) else X[k]? := by
  induction m with
  | zero => rfl
  | succ m ih =>
    rw [writeWords, setBufferWord_getElem? _ _ _ _ (by omega), ih (by omega)]
    by_cases hk : 4 * m ≤ k ∧ k < 4 * m + 4
    · rw [if_pos hk, if_pos (by omega), leWord_lane b m (by omega), show 4 * m + (k - 4 * m) = k by omega]
    · rw [if_neg hk]
      congr 1
      exact propext (by omega)

/-- All word writes of a byte string that fits leave the bytes rule R100 names. -/
theorem writeWords_eq_loadedByte {n : Nat} (X : Vector Byte n) {b : List Byte} (hb : b.length ≤ n) (hn : n % 4 = 0)
    (k : Nat) : (writeWords X b ((b.length + 3) / 4))[k]? = Spec.loadedByte b X k := by
  rw [writeWords_getElem? X b (by omega), Spec.loadedByte]
  by_cases hk : k < b.length
  · rw [if_pos (by omega), if_pos hk, List.getD_eq_getElem?_getD, List.getElem?_eq_getElem hk]; rfl
  · rw [if_neg hk, List.getD_eq_getElem?_getD, List.getElem?_eq_none (by omega)]; rfl

/-- In the states `f X c` the buffer of symbol `r` holds `X`: the host's word write there goes from one to the next. -/
def HoldsBuffer {n : Nat} (r : Sym) (f : Vector Byte n → Nat → State) : Prop :=
  ∀ (X : Vector Byte n) (c w : Nat) (v : Word) (rest : List HostEvent), 4 * w < n →
    step (issue (wr r (4 * w) v :: rest) (f X c)) = .next (issue rest (f (setBufferWord X (4 * w) v) (c - 1)))

/-- A run goes on from the state its first steps answer. -/
theorem run_add {M : Host.Core} {m n : Nat} {s t : M.State} (h : M.run m s = .next t) :
    M.run (m + n) s = M.run n t := by
  induction m generalizing s with
  | zero => cases h; rw [Nat.zero_add]
  | succ m ih =>
    rw [Nat.succ_add, Host.Core.run]
    rw [Host.Core.run] at h
    cases hstep : M.step s with
    | next u => rw [hstep] at h; exact ih h
    | fault r => rw [hstep] at h; cases h
    | refused r => rw [hstep] at h; cases h

/-- The first `m` word writes of `b`, with anything behind them. -/
theorem HoldsBuffer.run_words {n : Nat} {r : Sym} {f : Vector Byte n → Nat → State} (hf : HoldsBuffer r f)
    (b : List Byte) (X : Vector Byte n) (c : Nat) {m : Nat} (hm : 4 * m ≤ n) (rest : List HostEvent) :
    core.run m (issue ((List.range m).map (fun w => wr r (4 * w) (leWord b w)) ++ rest) (f X c)) =
      .next (issue rest (f (writeWords X b m) (c - m))) := by
  induction m generalizing rest with
  | zero => rfl
  | succ m ih =>
    rw [List.range_succ, List.map_append, List.append_assoc, run_add (ih (by omega) _)]
    exact core_run_next (hf _ _ _ _ rest (by omega))

/-- The word writes of a byte string that fits. -/
theorem HoldsBuffer.run_bufferWrites {n : Nat} {r : Sym} {f : Vector Byte n → Nat → State} (hf : HoldsBuffer r f)
    {b : List Byte} (hb : b.length ≤ n) (hn : n % 4 = 0) (X : Vector Byte n) (c : Nat) :
    ∃ Y c', core.run (bufferWrites r b).length (issue (bufferWrites r b) (f X c)) = .next (f Y c') ∧
      ∀ k, Y[k]? = Spec.loadedByte b X k := by
  have hrun := hf.run_words b X c (m := (b.length + 3) / 4) (by omega) []
  rw [List.append_nil, issue_nil] at hrun
  refine ⟨writeWords X b ((b.length + 3) / 4), c - (b.length + 3) / 4, ?_, writeWords_eq_loadedByte X hb hn⟩
  rw [bufferWrites, List.length_map, List.length_range]
  exact hrun

/-! ## The pseudo-instructions (30_encoding.md rule R100) -/

/-- The three writes of `setpos` leave the position they name, whatever POS held. -/
theorem setPos_registers (p q : Pos) : setPosHigh (posHigh p) (setPosMid (posMid p) (setPosLow (posLow p) q)) = p := by
  apply BitVec.eq_of_toNat_eq
  rw [setPosHigh_toNat, setPosMid_toNat, setPosLow_toNat, posLow_toNat, posMid_toNat, posHigh_toNat]
  omega

/-- A length register keeps a length it has the bits for. -/
theorem toNat_extractLsb'_ofNat {k m : Nat} (hk : k < 2 ^ m) (hm : m ≤ 32) :
    ((BitVec.ofNat 32 k).extractLsb' 0 m).toNat = k := by
  have hword : k < 2 ^ 32 := hk.trans_le (Nat.pow_le_pow_right (by decide) hm)
  rw [BitVec.extractLsb'_toNat, BitVec.toNat_ofNat, Nat.shiftRight_zero, Nat.mod_eq_of_lt hword, Nat.mod_eq_of_lt hk]

section
variable {s : State} (hb : s.status.busy = false) (hq : s.hostQueue = [])
include hb hq

theorem holdsBuffer_key : HoldsBuffer .KEY fun X c => { s with key := X, busyLeft := c } := by
  intro X c w v rest hw
  have hword : IsBufferWord 0x100 w := .inl ⟨rfl, by omega⟩
  have hloc : locate (0x100 + 4 * w) = .key (4 * w) := by
    rw [locate_key (by omega) (by omega), Nat.add_sub_cancel_left]
  exact step_issue_wr (s := { s with key := X, busyLeft := c }) (r := .KEY) hb hq hword.aligned_inWindow hloc

theorem holdsBuffer_nonce : HoldsBuffer .NONCE fun X c => { s with nonce := X, busyLeft := c } := by
  intro X c w v rest hw
  have hword : IsBufferWord 0x200 w := .inr (.inl ⟨rfl, by omega⟩)
  have hloc : locate (0x200 + 4 * w) = .nonce (4 * w) := by
    rw [locate_nonce (by omega) (by omega), Nat.add_sub_cancel_left]
  exact step_issue_wr (s := { s with nonce := X, busyLeft := c }) (r := .NONCE) hb hq hword.aligned_inWindow hloc

theorem holdsBuffer_dbuf : HoldsBuffer .DBUF fun X c => { s with dbuf := X, busyLeft := c } := by
  intro X c w v rest hw
  have hword : IsBufferWord 0x800 w := .inr (.inr ⟨rfl, hw⟩)
  have hloc : locate (0x800 + 4 * w) = .dbuf (4 * w) := by
    rw [locate_dbuf (by omega) (by omega), Nat.add_sub_cancel_left]
  exact step_issue_wr (s := { s with dbuf := X, busyLeft := c }) (r := .DBUF) hb hq hword.aligned_inWindow hloc

theorem run_setkey {b : List Byte} (hlen : b.length ≤ 256) :
    ∃ t, core.run (setkey b).length (issue (setkey b) s) = .next t ∧
      t = { s with key := t.key, keyLen := t.keyLen, busyLeft := t.busyLeft } ∧ t.keyLen.toNat = b.length ∧
      ∀ k < 256, t.key[k]? = Spec.loadedByte b s.key k := by
  let s₁ := hostWrote (BitVec.ofNat 32 b.length) .keyLen s
  have hfirst : step (issue (setkey b) s) = .next (issue (bufferWrites .KEY b) s₁) :=
    step_issue_wr hb hq (by decide) rfl
  obtain ⟨Y, c, hrun, hY⟩ :=
    (holdsBuffer_key (s := s₁) hb hq).run_bufferWrites hlen (by decide) s.key (s.busyLeft - 1)
  refine ⟨_, (core_run_next hfirst).trans hrun, rfl, ?_, fun k _ => hY k⟩
  exact toNat_extractLsb'_ofNat (m := 9) (by omega) (by decide)

theorem run_setnonce {b : List Byte} (hlen : b.length ≤ 24) :
    ∃ t, core.run (setnonce b).length (issue (setnonce b) s) = .next t ∧
      t = { s with nonce := t.nonce, nonceLen := t.nonceLen, busyLeft := t.busyLeft } ∧ t.nonceLen.toNat = b.length ∧
      ∀ k < 24, t.nonce[k]? = Spec.loadedByte b s.nonce k := by
  let s₁ := hostWrote (BitVec.ofNat 32 b.length) .nonceLen s
  have hfirst : step (issue (setnonce b) s) = .next (issue (bufferWrites .NONCE b) s₁) :=
    step_issue_wr hb hq (by decide) rfl
  obtain ⟨Y, c, hrun, hY⟩ :=
    (holdsBuffer_nonce (s := s₁) hb hq).run_bufferWrites hlen (by decide) s.nonce (s.busyLeft - 1)
  refine ⟨_, (core_run_next hfirst).trans hrun, rfl, ?_, fun k _ => hY k⟩
  exact toNat_extractLsb'_ofNat (m := 5) (by omega) (by decide)

theorem run_load {b : List Byte} (hlen : b.length ≤ Config.dbufBytes) :
    ∃ t, core.run (load b).length (issue (load b) s) = .next t ∧
      t = { s with dbuf := t.dbuf, busyLeft := t.busyLeft } ∧
      ∀ k < Config.dbufBytes, t.dbuf[k]? = Spec.loadedByte b s.dbuf k := by
  obtain ⟨Y, c, hrun, hY⟩ :=
    (holdsBuffer_dbuf hb hq).run_bufferWrites hlen Config.dbufBytes_dvd s.dbuf s.busyLeft
  exact ⟨_, hrun, rfl, fun k _ => hY k⟩

theorem run_setlen (n : Word) : core.run 1 (issue (setlen n) s) =
    .next { s with len := BitVec.ofNat 16 (n.toNat % 65536), busyLeft := s.busyLeft - 1 } := by
  have hlen : n.extractLsb' 0 16 = BitVec.ofNat 16 (n.toNat % 65536) := BitVec.eq_of_toNat_eq (by simp)
  have hstep : step (issue (setlen n) s) = .next (issue [] (hostWrote n .len s)) := step_issue_wr hb hq (by decide) rfl
  rw [core_run_next hstep, issue_nil, core_run_zero, ← hlen]
  rfl

theorem run_setpos (p : Pos) :
    core.run 3 (issue (setpos p) s) = .next { s with pos := p, busyLeft := s.busyLeft - 3 } := by
  let s₁ := hostWrote (posLow p) .pos0 s
  let s₂ := hostWrote (posMid p) .pos1 s₁
  let s₃ := hostWrote (posHigh p) .pos2 s₂
  have h₁ : step (issue (setpos p) s) = .next (issue [wr .POS1 0 (posMid p), wr .POS2 0 (posHigh p)] s₁) :=
    step_issue_wr hb hq (by decide) rfl
  have h₂ : step (issue [wr .POS1 0 (posMid p), wr .POS2 0 (posHigh p)] s₁) =
      .next (issue [wr .POS2 0 (posHigh p)] s₂) := step_issue_wr hb hq (by decide) rfl
  have h₃ : step (issue [wr .POS2 0 (posHigh p)] s₂) = .next (issue [] s₃) := step_issue_wr hb hq (by decide) rfl
  have hpos : s₃ = { s with pos := s₃.pos, busyLeft := s.busyLeft - 3 } := rfl
  have hp : s₃.pos = p := setPos_registers p s.pos
  rw [core_run_next h₁, core_run_next h₂, core_run_next h₃, core_run_zero, issue_nil, hpos, hp]

end

/-- Settles O58: the buffers' word writes are one induction (`HoldsBuffer.run_bufferWrites`); the registers' writes are
single steps. -/
theorem pseudoInstructionsSetTheOperands : Obligations.PseudoInstructionsSetTheOperands :=
  fun _ hb hq => ⟨fun _ => run_setkey hb hq, fun _ => run_setnonce hb hq, fun _ => run_load hb hq, run_setlen hb hq,
    run_setpos hb hq⟩

/-! ## `run` (30_encoding.md rule R100) -/

/-- A command's step clears BUSY and leaves the waiting accesses alone. -/
theorem exec_busy_hostQueue {i : Instr} {s t : State} (h : exec i s = .next t) :
    t.status.busy = false ∧ t.hostQueue = s.hostQueue := by
  rcases exec_cases h with ⟨e, -, rfl⟩ | ⟨-, rfl⟩
  · exact ⟨rfl, rfl⟩
  · exact ⟨rfl, effectOf_hostQueue s i⟩

/-- BUSY is bit 0 of STATUS (10_state.md rule R21). -/
theorem Status.word_getLsbD_zero (t : Status) : t.word.getLsbD 0 = t.busy := by
  rw [Status.word, BitVec.getLsbD_append]
  simp

/-- The STATUS read that ends a `wait`. -/
theorem step_poll_idle {s : State} {rest : List HostEvent} (hb : s.status.busy = false)
    (hq : s.hostQueue = .poll :: rest) :
    step s = .next { Spec.taken rest s with readLog := ⟨0x004, s.status.word⟩ :: s.readLog } := by
  rw [step_host (nextTurn_of_idle hb hq) rfl, applyEvent, busRead_takeEvent rest (readValue_idle _ hb)]
  rfl

/-- Settles O59: the CMD write, the command's step (the host only polls), and the read that ends the `wait`. -/
theorem runEndsWithTheCommandsEffect : Obligations.RunEndsWithTheCommandsEffect := by
  intro i s hb hq
  let a := issue [.poll] (hostWrote (encode i) .cmd s)
  have haq : a.hostQueue = [.poll] := by
    show s.hostQueue ++ [.poll] = [.poll]
    rw [hq]
    rfl
  have hwrite : step (issue (run i) s) = .next a := step_issue_wr hb hq (by decide) rfl
  obtain ⟨t, ht⟩ := exec_next i a
  have hcommand : step a = .next t :=
    (step_decoded (nextTurn_command.mpr ⟨rfl, .inr (.inl ⟨[], haq⟩)⟩) (decode_encode i)).trans ht
  obtain ⟨htb, htq⟩ := exec_busy_hostQueue ht
  refine ⟨a, t, core_run_next hwrite, rfl, ht, ?_, by rw [Status.word_getLsbD_zero, htb]⟩
  rw [core_run_next hwrite, core_run_next hcommand, core_run_next (step_poll_idle htb (htq.trans haq))]
  rfl

end Sys2Proof.Machine
end

section
/-! PROOFS. The RC4 engine against 40_rc4.md's loops over natural numbers, and what its two commands do (family
40_rc4.md). -/

namespace Sys2Proof.Machine

open Spec (permNat swapAt prgaSteps)

/-! ## The permutation as an array of numbers -/

@[simp] theorem permNat_toNat (S : Vector Byte 256) (k : Byte) : permNat S k.toNat = (permAt S k).toNat := by
  rw [permNat, permAt_eq, Vector.getElem?_eq_getElem k.isLt, Option.getD_some]

/-- A number below 256 as a byte. -/
theorem exists_byte {k : Nat} (hk : k < 256) : ∃ b : Byte, b.toNat = k :=
  ⟨BitVec.ofNat 8 k, by rw [BitVec.toNat_ofNat, Nat.mod_eq_of_lt hk]⟩

/-- The swap of two bytes' places is the swap of rule R11 over natural numbers. -/
theorem permNat_permSwap (S : Vector Byte 256) (a b : Byte) {k : Nat} (hk : k < 256) :
    permNat (permSwap S a b) k = swapAt (permNat S) a.toNat b.toNat k := by
  obtain ⟨c, rfl⟩ := exists_byte hk
  simp only [permNat_toNat, permAt_permSwap, swapAt, BitVec.toNat_inj, apply_ite BitVec.toNat]

/-- What a swap leaves at a place depends on that place and on the two swapped alone. -/
theorem swapAt_congr {S T : Nat → Nat} {a b k : Nat} (ha : S a = T a) (hb : S b = T b) (hk : S k = T k) :
    swapAt S a b k = swapAt T a b k := by
  simp only [swapAt, ha, hb, hk]

/-! ## KSA (rules R120, R123) -/

/-- KSA's `S` and `j` after `i` turns. -/
def ksaAfter (K : List Byte) (i : Nat) : Vector Byte 256 × Byte := (List.range i).foldl (ksaStep K) (identityRom, 0)

theorem ksaAfter_succ (K : List Byte) (i : Nat) : ksaAfter K (i + 1) = ksaStep K (ksaAfter K i) i := by
  rw [ksaAfter, List.range_succ, List.foldl_concat, ksaAfter]

/-- After every turn up to the last, `S` and `j` are those of rule R120's loop. -/
theorem ksaAfter_eq_ksaLoop (K : List Byte) {i : Nat} (hi : i ≤ 256) :
    (ksaAfter K i).2.toNat = (Spec.ksaLoop K i).2 ∧
      ∀ k < 256, permNat (ksaAfter K i).1 k = (Spec.ksaLoop K i).1 k := by
  induction i with
  | zero =>
    refine ⟨rfl, fun k hk => ?_⟩
    obtain ⟨b, rfl⟩ := exists_byte hk
    rw [permNat_toNat]
    exact congrArg BitVec.toNat (permAt_identityRom b)
  | succ i ih =>
    obtain ⟨hj, hS⟩ := ih (by omega)
    obtain ⟨b, rfl⟩ := exists_byte (k := i) (by omega)
    have hb : BitVec.ofNat 8 b.toNat = b := BitVec.ofNat_toNat 8 b
    have hj' : (ksaAfter K (b.toNat + 1)).2.toNat = (Spec.ksaLoop K (b.toNat + 1)).2 := by
      simp only [ksaAfter_succ, ksaStep, Spec.ksaLoop, hb, BitVec.toNat_add, hj, ← hS b.toNat b.isLt, permNat_toNat,
        Nat.mod_add_mod]
    refine ⟨hj', fun k hk => ?_⟩
    calc permNat (ksaAfter K (b.toNat + 1)).1 k
        = swapAt (permNat (ksaAfter K b.toNat).1) b.toNat (ksaAfter K (b.toNat + 1)).2.toNat k := by
          rw [ksaAfter_succ, ← permNat_permSwap _ _ _ hk, ksaStep, hb]
      _ = swapAt (Spec.ksaLoop K b.toNat).1 b.toNat (ksaAfter K (b.toNat + 1)).2.toNat k :=
          swapAt_congr (hS _ b.isLt) (hS _ (BitVec.isLt _)) (hS k hk)
      _ = (Spec.ksaLoop K (b.toNat + 1)).1 k := by rw [hj']; rfl

/-- Settles O29, at the loop's last turn. -/
theorem ksaRunsThePublishedLoop : Obligations.KsaRunsThePublishedLoop :=
  fun K _ _ => ⟨(ksaAfter_eq_ksaLoop K le_rfl).2, isPermutation_ksa K⟩

/-- Settles O33: turn `i` reads the key at `i mod |K|`, which is `i` itself when the key has more than 256 bytes. -/
theorem longKeyActsAsItsFirst256Bytes : Obligations.LongKeyActsAsItsFirst256Bytes := by
  intro K hK
  have hturn : ∀ i < 256, K.getD (i % K.length) 0 = (K.take 256).getD (i % (K.take 256).length) 0 := by
    intro i hi
    rw [List.length_take_of_le hK.le, Nat.mod_eq_of_lt hi, Nat.mod_eq_of_lt (hi.trans hK), List.getD_eq_getElem?_getD,
      List.getD_eq_getElem?_getD, List.getElem?_take_of_lt hi]
  refine congrArg Prod.fst (List.foldl_ext _ _ _ fun st i hi => ?_)
  rw [ksaStep, hturn i (List.mem_range.mp hi), ← ksaStep]

/-! ## One PRGA step (rule R121) -/

/-- The byte of a step is read from the state after it. -/
theorem prgaStep_byte (r : Rc4) : (prgaStep r).1 =
    permAt (prgaStep r).2.S (permAt (prgaStep r).2.S (prgaStep r).2.i + permAt (prgaStep r).2.S (prgaStep r).2.j) := rfl

/-- Settles O30: the indices are sums of bytes, the swap is rule R11's, and every entry is read after it. -/
theorem prgaStepFollowsTheRule : Obligations.PrgaStepFollowsTheRule := by
  intro r i j S hi hj hS
  obtain rfl : (prgaStep r).2.i.toNat = i := by rw [hi]; exact BitVec.toNat_add _ _
  obtain rfl : (prgaStep r).2.j.toNat = j := by rw [hj, permNat_toNat]; exact BitVec.toNat_add _ _
  have hswap : ∀ k < 256, permNat (prgaStep r).2.S k = S k := fun k hk => hS ▸ permNat_permSwap r.S _ _ hk
  have hread (b : Byte) : S b.toNat = (permAt (prgaStep r).2.S b).toNat := by rw [← hswap _ b.isLt, permNat_toNat]
  refine ⟨rfl, rfl, hswap, ?_, fun hij => ?_⟩
  · rw [hread, hread, ← BitVec.toNat_add, hread, prgaStep_byte]
  · have hi' : (prgaStep r).2.i = (prgaStep r).2.j := BitVec.toNat_inj.mp hij
    have hkept : (prgaStep r).2.S = r.S := (congrArg (permSwap r.S _) hi').symm.trans (permSwap_self r.S _)
    refine ⟨hkept, ?_⟩
    rw [permNat_toNat, Nat.two_mul, ← BitVec.toNat_add, permNat_toNat, ← hkept, prgaStep_byte, hi']

/-! ## Runs of PRGA steps -/

/-- The keystream byte of PRGA step `m + 1`. -/
def prgaByte (r : Rc4) (m : Nat) : Byte := (prgaStep (prgaSteps m r)).1

theorem prgaSteps_succ (m : Nat) (r : Rc4) : prgaSteps (m + 1) r = (prgaStep (prgaSteps m r)).2 :=
  Function.iterate_succ_apply' _ m r

theorem prgaSteps_add (m n : Nat) (r : Rc4) : prgaSteps (m + n) r = prgaSteps m (prgaSteps n r) :=
  Function.iterate_add_apply _ m n r

theorem prgaByte_prgaSteps (n : Nat) (r : Rc4) (m : Nat) : prgaByte (prgaSteps n r) m = prgaByte r (m + n) := by
  rw [prgaByte, prgaByte, prgaSteps_add]

/-- A run of `n` steps: its bytes are those of steps 1 to `n`. -/
theorem prgaRun_eq (n : Nat) (r : Rc4) : prgaRun n r = ((List.range n).map (prgaByte r), prgaSteps n r) := by
  induction n with
  | zero => rfl
  | succ n ih =>
    rw [prgaRun_add, ih, List.range_succ, List.map_append, prgaSteps_succ]
    rfl

/-! ## The loops into DBUF (40_rc4.md rule R125, 43_pos_xor.md rule R205) -/

/-- A byte of DBUF after the merge loop: merged below the loop's bound, as before beyond. -/
theorem streamLoop_getElem? (ks : Bool) (f : Nat → Byte) (d : Vector Byte Config.dbufBytes) (n k : Nat) :
    (Spec.streamLoop ks f d n)[k]? = if k < n then d[k]?.map fun b => merge b (f k) ks else d[k]? := by
  induction n generalizing k with
  | zero => rfl
  | succ n ih =>
    rw [Spec.streamLoop, Vector.getElem?_setIfInBounds, ih, ih]
    rcases lt_trichotomy k n with hlt | rfl | hgt
    · rw [if_neg (by omega), if_pos hlt, if_pos (by omega)]
    · rw [if_pos rfl, if_neg (Nat.lt_irrefl k), if_pos k.lt_succ_self]
      by_cases hk : k < Config.dbufBytes
      · rw [if_pos hk, Vector.getElem?_eq_getElem hk]
        rfl
      · rw [if_neg hk, Vector.getElem?_eq_none (Nat.le_of_not_lt hk)]
        rfl
    · rw [if_neg (by omega), if_neg (by omega), if_neg (by omega)]

/-- Merging `n` keystream bytes into DBUF is the merge loop of `n` turns. -/
theorem mergeDbuf_map_range (ks : Bool) (f : Nat → Byte) (n : Nat) (s : State) :
    (mergeDbuf ks ((List.range n).map f) s).dbuf = Spec.streamLoop ks f s.dbuf n := by
  refine Vector.ext fun k hk => Option.some_inj.mp ?_
  rw [← Vector.getElem?_eq_getElem, ← Vector.getElem?_eq_getElem, mergeDbuf_getElem? ks _ s hk, streamLoop_getElem?,
    List.length_map, List.length_range, Vector.getElem?_eq_getElem hk]
  split
  next hkn => rw [List.getD_eq_getElem?_getD, List.getElem?_map, List.getElem?_range hkn]; rfl
  next => rfl

/-- RC4_PRGA's loop is a merge loop beside a run of PRGA steps. -/
theorem prgaLoop_eq (ks : Bool) (d : Vector Byte Config.dbufBytes) (r : Rc4) (n : Nat) :
    Spec.prgaLoop ks d r n = (Spec.streamLoop ks (prgaByte r) d n, prgaSteps n r) := by
  induction n with
  | zero => rfl
  | succ n ih =>
    rw [Spec.prgaLoop, ih, prgaSteps_succ]
    rfl

/-! ## The commands (rules R124, R125) -/

/-- Settles O31. -/
theorem rc4KsaSchedulesTheKey : Obligations.Rc4KsaSchedulesTheKey := by
  intro s hlo hhi
  rw [exec_completed (by rw [checksOf, checkRc4Key_none.mpr ⟨hlo, hhi⟩]; rfl)]
  rfl

/-- Settles O32: both commands complete, and their operand is made of the bytes that are the same. -/
theorem ksaDependsOnTheKeyAlone : Obligations.KsaDependsOnTheKeyAlone := by
  intro s₁ s₂ t₁ t₂ hlen hkey hlo hhi h₁ h₂
  have hoperand : s₁.key.toList.take s₁.keyLen.toNat = s₂.key.toList.take s₂.keyLen.toNat := by
    rw [← hlen]
    refine List.ext_getElem? fun k => ?_
    by_cases hk : k < s₁.keyLen.toNat
    · rw [List.getElem?_take_of_lt hk, List.getElem?_take_of_lt hk, Vector.getElem?_toList, Vector.getElem?_toList,
        hkey k hk]
    · rw [List.getElem?_take_eq_none (by omega), List.getElem?_take_eq_none (by omega)]
  rw [rc4KsaSchedulesTheKey s₁ hlo hhi] at h₁
  rw [rc4KsaSchedulesTheKey s₂ (hlen ▸ hlo) (hlen ▸ hhi), ← hoperand] at h₂
  injection h₁ with h₁
  injection h₂ with h₂
  rw [← h₁, ← h₂]

/-- The state a completed RC4_PRGA leaves. -/
def prgaDone (ks : Bool) (s : State) : State :=
  { s with
    dbuf := Spec.streamLoop ks (prgaByte s.rc4) s.dbuf s.len.toNat
    rc4 := prgaSteps s.len.toNat s.rc4
    status := Spec.completed s.status }

theorem exec_rc4Prga (ks : Bool) {s : State} (hlen : s.len.toNat ≤ Config.dbufBytes) (hv : s.status.rc4v = true) :
    exec (.rc4Prga ks) s = .next (prgaDone ks s) := by
  rw [exec_completed (by rw [checksOf, checkLen_none.mpr hlen, checkRc4State_none.mpr hv]; rfl), prgaDone,
    ← mergeDbuf_map_range, effectOf, rc4PrgaEffect, prgaRun_eq]
  rfl

/-- Settles O34. -/
theorem rc4PrgaRunsTheLoop : Obligations.Rc4PrgaRunsTheLoop := by
  intro ks s hlen hv
  rw [exec_rc4Prga ks hlen hv, prgaLoop_eq, prgaDone]

/-! ## A sequence of RC4_PRGA commands (rule R126) -/

/-- The state after a sequence's command `c`, which the host has given its LEN and its data. -/
def chunkDone (c : Spec.Chunk) (s : State) : State := prgaDone c.ks { s with len := c.len, dbuf := c.data }

/-- Data bytes merged with the keystream from PRGA step 1 on, each under its own KS. -/
def mergedFrom (r : Rc4) (data : List (Byte × Bool)) : List Byte :=
  data.mapIdx fun m d => merge d.1 (prgaByte r m) d.2

theorem mergedFrom_append (r : Rc4) (a b : List (Byte × Bool)) :
    mergedFrom r (a ++ b) = mergedFrom r a ++ mergedFrom (prgaSteps a.length r) b := by
  simp only [mergedFrom, List.mapIdx_append, prgaByte_prgaSteps]

/-- The data bytes of one command. -/
def chunkBytes (c : Spec.Chunk) : List (Byte × Bool) := (c.data.toList.take c.len.toNat).map fun d => (d, c.ks)

@[simp] theorem chunkData_nil : Spec.chunkData [] = [] := rfl

@[simp] theorem chunkData_cons (c : Spec.Chunk) (l : List Spec.Chunk) :
    Spec.chunkData (c :: l) = chunkBytes c ++ Spec.chunkData l := rfl

theorem chunkBytes_length {c : Spec.Chunk} (hc : c.len.toNat ≤ Config.dbufBytes) :
    (chunkBytes c).length = c.len.toNat := by
  rw [chunkBytes, List.length_map, List.length_take_of_le (by rwa [Vector.length_toList])]

/-- What one command leaves in `DBUF[0..LEN-1]`. -/
theorem chunkDone_dbuf_take (c : Spec.Chunk) (s : State) :
    (chunkDone c s).dbuf.toList.take c.len.toNat = mergedFrom s.rc4 (chunkBytes c) := by
  refine List.ext_getElem? fun k => ?_
  rw [mergedFrom, List.getElem?_mapIdx, chunkBytes, List.getElem?_map]
  by_cases hk : k < c.len.toNat
  · rw [List.getElem?_take_of_lt hk, List.getElem?_take_of_lt hk, Vector.getElem?_toList, Vector.getElem?_toList,
      Option.map_map, chunkDone, prgaDone, streamLoop_getElem?, if_pos hk]
    rfl
  · rw [List.getElem?_take_eq_none (by omega), List.getElem?_take_eq_none (by omega)]
    rfl

theorem prgaCommands_cons {c : Spec.Chunk} {s : State} (l : List Spec.Chunk) (hv : s.status.rc4v = true)
    (hc : c.len.toNat ≤ Config.dbufBytes) :
    Spec.prgaCommands (c :: l) s =
      (mergedFrom s.rc4 (chunkBytes c) ++ (Spec.prgaCommands l (chunkDone c s)).1,
        (Spec.prgaCommands l (chunkDone c s)).2) := by
  have hexec : exec (.rc4Prga c.ks) { s with len := c.len, dbuf := c.data } = .next (chunkDone c s) :=
    exec_rc4Prga c.ks hc hv
  rw [Spec.prgaCommands, hexec, ← chunkDone_dbuf_take]

/-- A sequence from a state with a key schedule: its bytes, the RC4 state after it, and that DONE is 1 once it has been
or a command has run. -/
theorem prgaCommands_eq (l : List Spec.Chunk) {s : State} (hv : s.status.rc4v = true)
    (hl : ∀ c ∈ l, c.len.toNat ≤ Config.dbufBytes) :
    (Spec.prgaCommands l s).1 = mergedFrom s.rc4 (Spec.chunkData l) ∧
      (Spec.prgaCommands l s).2.rc4 = prgaSteps (Spec.chunkData l).length s.rc4 ∧
      (l ≠ [] ∨ s.status.done = true → (Spec.prgaCommands l s).2.status.done = true) := by
  induction l generalizing s with
  | nil => exact ⟨rfl, rfl, fun h => h.resolve_left (absurd rfl)⟩
  | cons c l ih =>
    obtain ⟨hc, hl⟩ := List.forall_mem_cons.mp hl
    obtain ⟨hbytes, hrc4, hdone⟩ := ih (s := chunkDone c s) hv hl
    have hnext : (chunkDone c s).rc4 = prgaSteps (chunkBytes c).length s.rc4 := by rw [chunkBytes_length hc]; rfl
    rw [prgaCommands_cons l hv hc, chunkData_cons, mergedFrom_append, ← hnext]
    refine ⟨congrArg _ hbytes, ?_, fun _ => hdone (.inr rfl)⟩
    rw [hrc4, hnext, ← prgaSteps_add, List.length_append, Nat.add_comm]

/-- Settles O35. -/
theorem rc4KeystreamIgnoresChunking : Obligations.Rc4KeystreamIgnoresChunking := by
  intro s l hv hl
  obtain ⟨hbytes, hrc4, hdone⟩ := prgaCommands_eq l hv hl
  refine ⟨fun m => ?_, hrc4, fun hne => hdone (.inl hne)⟩
  rw [hbytes, mergedFrom, List.getElem?_mapIdx]
  rfl

/-! ## POS and NONCE (rule R128) -/

/-- Settles O36: neither the checks nor the effect of an RC4 command reads POS, NONCE or NONCELEN. -/
theorem rc4IgnoresPositionAndNonce : Obligations.Rc4IgnoresPositionAndNonce := by
  intro ks i s t p n l hi h
  have hchecks : checksOf { s with pos := p, nonce := n, nonceLen := l } i = checksOf s i := by
    rcases hi with rfl | rfl <;> rfl
  have heffect : effectOf { s with pos := p, nonce := n, nonceLen := l } i =
      { effectOf s i with pos := p, nonce := n, nonceLen := l } := by
    rcases hi with rfl | rfl <;> rfl
  rcases exec_cases h with ⟨e, he, rfl⟩ | ⟨hnone, rfl⟩
  · rw [exec_rejected (hchecks ▸ he)]
    rfl
  · rw [exec_completed (hchecks ▸ hnone), heffect]
    rfl

end Sys2Proof.Machine
end

section
/-! PROOFS. The round functions of Salsa20 and ChaCha20: the Salsa20 quarter-round line by line, and why the
quarter-rounds of a round commute (family 41_salsa20.md). -/

namespace Sys2Proof.Machine

/-! ## One word of a block -/

/-- A word of a block after a write to one of its words. -/
theorem block_getElem_set (x : Block) (a k : Fin 16) (v : Word) : (x.set a v)[k] = if a = k then v else x[k] := by
  simp only [Fin.getElem_fin, Vector.getElem_set, Fin.val_inj]

theorem rotl32_eq_rotateLeft (v : Word) {n : Nat} (hn : n < 32) : rotl32 v n = v.rotateLeft n :=
  (BitVec.rotateLeft_eq_rotateLeftAux_of_lt hn).symm

/-! ## The lines of the Salsa20 quarter-round (rule R142) -/

/-- One line: `x[t] <- x[t] xor rotl32(x[p] +32 x[q], n)`. -/
def salsaLine (t p q : Fin 16) (n : Nat) (x : Block) : Block := x.set t (x[t] ^^^ rotl32 (x[p] + x[q]) n)

theorem qrSalsa_eq_salsaLines (a b c d : Fin 16) (x : Block) :
    qrSalsa a b c d x = salsaLine a d c 18 (salsaLine d c b 13 (salsaLine c b a 9 (salsaLine b a d 7 x))) := rfl

theorem salsaLine_getElem_self (t p q : Fin 16) {n : Nat} (hn : n < 32) (x : Block) :
    (salsaLine t p q n x)[t] = x[t] ^^^ (x[p] + x[q]).rotateLeft n := by
  rw [salsaLine, block_getElem_set, if_pos rfl, rotl32_eq_rotateLeft _ hn]

theorem salsaLine_getElem_of_ne {t k : Fin 16} (p q : Fin 16) (n : Nat) (x : Block) (h : t ≠ k) :
    (salsaLine t p q n x)[k] = x[k] := by
  rw [salsaLine, block_getElem_set, if_neg h]

/-- Settles O24: each of the four words is written by one line, which reads what the lines before it wrote; the lines
after it leave it alone. -/
theorem salsaQuarterRound : Obligations.SalsaQuarterRound := by
  intro a b c d x hnodup
  simp only [List.nodup_cons, List.mem_cons, List.not_mem_nil, or_false, not_or, not_false_eq_true, List.nodup_nil,
    and_true] at hnodup
  obtain ⟨⟨hab, hac, had⟩, ⟨hbc, hbd⟩, hcd⟩ := hnodup
  rw [qrSalsa_eq_salsaLines]
  refine ⟨?_, ?_, ?_, ?_, fun k hk => ?frame⟩
  case frame =>
    simp only [List.mem_cons, List.not_mem_nil, or_false, not_or] at hk
    obtain ⟨ha, hb, hc, hd⟩ := hk
    rw [salsaLine_getElem_of_ne _ _ _ _ (Ne.symm ha), salsaLine_getElem_of_ne _ _ _ _ (Ne.symm hd),
      salsaLine_getElem_of_ne _ _ _ _ (Ne.symm hc), salsaLine_getElem_of_ne _ _ _ _ (Ne.symm hb)]
  all_goals simp only [salsaLine_getElem_self, salsaLine_getElem_of_ne, ne_eq, hab, hac, had, hbc, hbd, hcd,
    Ne.symm hab, Ne.symm hac, Ne.symm had, Ne.symm hbc, Ne.symm hbd, Ne.symm hcd, not_false_eq_true, Nat.reduceLT]

/-! ## Quarter-rounds on disjoint words (rules R157, R184) -/

/-- The two blocks hold the same words at the places `I`. -/
def AgreeOn (I : List (Fin 16)) (x y : Block) : Prop := ∀ k ∈ I, x[k] = y[k]

/-- The operation writes words of `I` alone, and what it writes there is made of the words of `I` alone. -/
def ActsOn (I : List (Fin 16)) (f : Block → Block) : Prop :=
  (∀ x, ∀ k ∉ I, (f x)[k] = x[k]) ∧ ∀ x y, AgreeOn I x y → AgreeOn I (f x) (f y)

theorem ActsOn.comp {I : List (Fin 16)} {f g : Block → Block} (hg : ActsOn I g) (hf : ActsOn I f) :
    ActsOn I fun x => g (f x) :=
  ⟨fun x k hk => (hg.1 _ k hk).trans (hf.1 x k hk), fun x y h => hg.2 _ _ (hf.2 x y h)⟩

/-- Writing one word of `I` with a value made of the words of `I`. -/
theorem actsOn_set {I : List (Fin 16)} {a : Fin 16} {v : Block → Word} (ha : a ∈ I)
    (hv : ∀ x y, AgreeOn I x y → v x = v y) : ActsOn I fun x => x.set a (v x) := by
  refine ⟨fun x k hk => ?_, fun x y h k hk => ?_⟩
  · rw [block_getElem_set, if_neg (by rintro rfl; exact hk ha)]
  · rw [block_getElem_set, block_getElem_set, hv x y h, h k hk]

/-- Outside the words of `g`, it does not matter whether `g` ran before or after `f`. -/
theorem ActsOn.getElem_comm {I J : List (Fin 16)} {f g : Block → Block} (hf : ActsOn I f) (hg : ActsOn J g)
    (hIJ : I.Disjoint J) (x : Block) {k : Fin 16} (hk : k ∉ J) : (f (g x))[k] = (g (f x))[k] := by
  have hkept : AgreeOn I (g x) x := fun i hi => hg.1 x i (hIJ hi)
  rw [hg.1 (f x) k hk]
  by_cases hkI : k ∈ I
  · exact hf.2 _ _ hkept k hkI
  · rw [hf.1 _ k hkI, hf.1 _ k hkI, hg.1 x k hk]

/-- Operations on disjoint words commute. -/
theorem ActsOn.comm {I J : List (Fin 16)} {f g : Block → Block} (hf : ActsOn I f) (hg : ActsOn J g)
    (hIJ : I.Disjoint J) (x : Block) : f (g x) = g (f x) := by
  refine Vector.ext fun k hk => ?_
  by_cases hkJ : (⟨k, hk⟩ : Fin 16) ∈ J
  · exact (hg.getElem_comm hf hIJ.symm x fun hkI => hIJ hkI hkJ).symm
  · exact hf.getElem_comm hg hIJ x hkJ

theorem salsaLine_actsOn {I : List (Fin 16)} {t p q : Fin 16} (n : Nat) (ht : t ∈ I) (hp : p ∈ I) (hq : q ∈ I) :
    ActsOn I (salsaLine t p q n) :=
  actsOn_set ht fun x y h => by rw [h t ht, h p hp, h q hq]

theorem qrSalsa_actsOn (a b c d : Fin 16) : ActsOn [a, b, c, d] (qrSalsa a b c d) :=
  (salsaLine_actsOn 18 (by simp) (by simp) (by simp)).comp
    ((salsaLine_actsOn 13 (by simp) (by simp) (by simp)).comp
      ((salsaLine_actsOn 9 (by simp) (by simp) (by simp)).comp
        (salsaLine_actsOn 7 (by simp) (by simp) (by simp))))

theorem chachaLine_actsOn {I : List (Fin 16)} {a b d : Fin 16} (n : Nat) (ha : a ∈ I) (hb : b ∈ I) (hd : d ∈ I) :
    ActsOn I (chachaLine a b d n) :=
  (actsOn_set (v := fun x => rotl32 x[d] n) hd fun x y h => by rw [h d hd]).comp
    ((actsOn_set (v := fun x => x[d] ^^^ x[a]) hd fun x y h => by rw [h d hd, h a ha]).comp
      (actsOn_set (v := fun x => x[a] + x[b]) ha fun x y h => by rw [h a ha, h b hb]))

theorem qrChacha_actsOn (a b c d : Fin 16) : ActsOn [a, b, c, d] (qrChacha a b c d) :=
  (chachaLine_actsOn 7 (by simp) (by simp) (by simp)).comp
    ((chachaLine_actsOn 8 (by simp) (by simp) (by simp)).comp
      ((chachaLine_actsOn 12 (by simp) (by simp) (by simp)).comp
        (chachaLine_actsOn 16 (by simp) (by simp) (by simp))))

/-! ## The order of a round's quarter-rounds -/

/-- The places of a quadruple. -/
def places (q : Fin 16 × Fin 16 × Fin 16 × Fin 16) : List (Fin 16) := [q.1, q.2.1, q.2.2.1, q.2.2.2]

/-- Quarter-rounds on pairwise disjoint quadruples may run in any order. -/
theorem quarterRounds_perm {qr : Fin 16 → Fin 16 → Fin 16 → Fin 16 → Block → Block}
    (hqr : ∀ a b c d, ActsOn [a, b, c, d] (qr a b c d)) {l l' : List (Fin 16 × Fin 16 × Fin 16 × Fin 16)}
    (hdisj : ∀ p ∈ l', ∀ q ∈ l', p = q ∨ ∀ k ∈ places p, k ∉ places q) (hperm : l.Perm l') (x : Block) :
    Spec.quarterRounds qr l x = Spec.quarterRounds qr l' x := by
  refine hperm.foldl_eq' (fun p hp q hq z => ?_) x
  rcases hdisj p (hperm.mem_iff.mp hp) q (hperm.mem_iff.mp hq) with rfl | hpq
  · rfl
  · exact (ActsOn.comm (hqr ..) (hqr ..) (fun k hkp hkq => hpq k hkp hkq) z).symm

/-- Settles O26: the listed quadruples of each round are pairwise disjoint, and a quarter-round acts on its own
words. -/
theorem quarterRoundOrderDoesNotMatter : Obligations.QuarterRoundOrderDoesNotMatter :=
  fun _ x => ⟨fun h => quarterRounds_perm qrSalsa_actsOn (by decide) h x,
    fun h => quarterRounds_perm qrSalsa_actsOn (by decide) h x,
    fun h => quarterRounds_perm qrChacha_actsOn (by decide) h x,
    fun h => quarterRounds_perm qrChacha_actsOn (by decide) h x⟩

end Sys2Proof.Machine
end

section
/-! PROOFS. The block functions, the H-functions and the commands of Salsa20, and with them those of ChaCha20 where one
statement speaks of both (family 41_salsa20.md). -/

namespace Sys2Proof.Machine

/-! ## The input states (rules R140, R141, R147) -/

theorem leWord_drop_four (B : List Byte) (k : Nat) : leWord (B.drop 4) k = leWord B (k + 1) := by
  simp only [leWord, List.getD_eq_getElem?_getD, List.getElem?_drop]
  congr 3 <;> omega

/-- The words of `hsalsa_state` at the places of nonce and counter (rule R147). -/
theorem hsalsaState_eq (K N16 : List Byte) : hsalsaState K N16 =
    #v[c0, leWord K 0, leWord K 1, leWord K 2, leWord K 3, c1, leWord N16 0, leWord N16 1, leWord N16 2, leWord N16 3,
      c2, leWord K 4, leWord K 5, leWord K 6, leWord K 7, c3] := by
  simp only [hsalsaState, salsaState, BitVec.extractLsb'_append_eq_right, BitVec.extractLsb'_append_eq_left]

theorem hchachaState_eq (K N16 : List Byte) : hchachaState K N16 =
    #v[c0, c1, c2, c3, leWord K 0, leWord K 1, leWord K 2, leWord K 3, leWord K 4, leWord K 5, leWord K 6, leWord K 7,
      leWord N16 0, leWord N16 1, leWord N16 2, leWord N16 3] := by
  simp only [hchachaState, chachaState, leWord_drop_four, Nat.reduceAdd]

/-- Settles O27. -/
theorem cipherStateLayouts : Obligations.CipherStateLayouts :=
  ⟨rfl, fun _ _ _ => rfl, fun K N16 => by rw [hsalsaState_eq]; rfl, fun _ _ _ => rfl,
    fun K N16 => by rw [hchachaState_eq]; rfl⟩

/-! ## Block functions and H-functions (rules R145, R146, R148) -/

theorem leWord_salsaBlock (s : Block) (k : Fin 16) : leWord (salsaBlock s) k = (salsaRounds s)[k] + s[k] :=
  leWord_feedforward _ s k

theorem leWord_chachaBlock (s : Block) (k : Fin 16) : leWord (chachaBlock s) k = (chachaRounds s)[k] + s[k] :=
  leWord_feedforward _ s k

theorem wordsLe_hsalsa20 (K N : List Byte) : wordsLe (hsalsa20 K N) 8 =
    ([0, 5, 10, 15, 6, 7, 8, 9] : List (Fin 16)).map fun k => (salsaRounds (hsalsaState K N))[k] := by
  rw [hsalsa20]
  generalize salsaRounds (hsalsaState K N) = x
  exact wordsLe_ser [x[0], x[5], x[10], x[15], x[6], x[7], x[8], x[9]]

theorem wordsLe_hchacha20 (K N : List Byte) : wordsLe (hchacha20 K N) 8 =
    ([0, 1, 2, 3, 12, 13, 14, 15] : List (Fin 16)).map fun k => (chachaRounds (hchachaState K N))[k] := by
  rw [hchacha20]
  generalize chachaRounds (hchachaState K N) = x
  exact wordsLe_ser [x[0], x[1], x[2], x[3], x[12], x[13], x[14], x[15]]

/-- Settles O28. -/
theorem blockAndSubkeyOutputWords : Obligations.BlockAndSubkeyOutputWords :=
  ⟨fun _ => rfl, fun _ => rfl, fun s => ⟨salsaBlock_length s, leWord_salsaBlock s⟩,
    fun s => ⟨chachaBlock_length s, leWord_chachaBlock s⟩, wordsLe_hsalsa20, wordsLe_hchacha20⟩

/-! ## The H-commands and the block commands (rules R152, R153) -/

/-- DBUF after `m` bytes have been stored at its start. -/
theorem storeBytes_take_drop {n m : Nat} (X : Vector Byte n) {bs : List Byte} (hm : bs.length = m) (hn : m ≤ n) :
    (storeBytes X bs).toList.take m = bs ∧ (storeBytes X bs).toList.drop m = X.toList.drop m := by
  subst hm
  exact ⟨storeBytes_take X bs hn, storeBytes_drop X bs hn⟩

/-- The state a completed command leaves that has stored bytes at DBUF's start. -/
def dbufStored (bs : List Byte) (s : State) : State :=
  { s with dbuf := storeBytes s.dbuf bs, status := Spec.completed s.status }

theorem checks_subkey {s : State} (hk : s.keyLen.toNat = 32) (hn : s.nonceLen.toNat = 16) :
    firstError [checkCipherKey s, checkNonce [16] s] = none := by
  rw [checkCipherKey_none.mpr hk, checkNonce_none.mpr (by simp [hn])]
  rfl

/-- A command that passes its checks and stores bytes in DBUF. -/
theorem exec_of_storeDbuf {s : State} {i : Instr} {bs : List Byte} (hc : firstError (checksOf s i) = none)
    (he : effectOf s i = storeDbuf bs s) : exec i s = .next (dbufStored bs s) := by
  rw [exec_completed hc, he]
  rfl

theorem exec_hsalsa20 {s : State} (hk : s.keyLen.toNat = 32) (hn : s.nonceLen.toNat = 16) :
    exec .hsalsa20 s = .next (dbufStored (hsalsa20 (cipherKey s) (nonce16 s)) s) :=
  exec_of_storeDbuf (checks_subkey hk hn) (by rw [effectOf, hsalsa20Effect])

theorem exec_hchacha20 {s : State} (hk : s.keyLen.toNat = 32) (hn : s.nonceLen.toNat = 16) :
    exec .hchacha20 s = .next (dbufStored (hchacha20 (cipherKey s) (nonce16 s)) s) :=
  exec_of_storeDbuf (checks_subkey hk hn) (by rw [effectOf, hchacha20Effect])

theorem exec_salsa20Block (s : State) : exec .salsa20Block s = .next (dbufStored (salsaBlock (blockOperand s)) s) :=
  exec_of_storeDbuf rfl (by rw [effectOf, salsa20BlockEffect])

theorem exec_chacha20Block (s : State) : exec .chacha20Block s = .next (dbufStored (chachaBlock (blockOperand s)) s) :=
  exec_of_storeDbuf rfl (by rw [effectOf, chacha20BlockEffect])

theorem subkey_fits : 32 ≤ Config.dbufBytes := Nat.le_trans (by decide) Config.dbufBytes_ge

/-- Settles O39. -/
theorem subkeyCommandsWriteTheSubkey : Obligations.SubkeyCommandsWriteTheSubkey := by
  intro s hk hn
  obtain ⟨htake₁, hdrop₁⟩ := storeBytes_take_drop s.dbuf (hsalsa20_length (cipherKey s) (nonce16 s)) subkey_fits
  obtain ⟨htake₂, hdrop₂⟩ := storeBytes_take_drop s.dbuf (hchacha20_length (cipherKey s) (nonce16 s)) subkey_fits
  exact ⟨_, _, exec_hsalsa20 hk hn, exec_hchacha20 hk hn, htake₁, htake₂, hdrop₁, hdrop₂⟩

/-- A block command's operand is the block of the 16 words that DBUF holds (30_encoding.md rule R95). -/
theorem blockOperand_eq {s : State} {x : Block} (h : x.toList = wordsLe (s.dbuf.toList.take 64) 16) :
    blockOperand s = x := by
  rw [← Vector.toList_inj, h, blockOperand, blockOfBytes, tabulate_toList, wordsLe]

/-- Settles O40. -/
theorem blockCommandsApplyTheBlockFunction : Obligations.BlockCommandsApplyTheBlockFunction := by
  intro s x hx
  obtain rfl := blockOperand_eq hx
  obtain ⟨htake₁, hdrop₁⟩ := storeBytes_take_drop s.dbuf (salsaBlock_length (blockOperand s)) Config.dbufBytes_ge
  obtain ⟨htake₂, hdrop₂⟩ := storeBytes_take_drop s.dbuf (chachaBlock_length (blockOperand s)) Config.dbufBytes_ge
  exact ⟨_, _, exec_salsa20Block s, exec_chacha20Block s, htake₁, htake₂, hdrop₁, hdrop₂⟩

/-! ## The stream commands -/

theorem exec_salsa20Stream (ks : Bool) {s : State} (hk : s.keyLen.toNat = 32)
    (hn : s.nonceLen.toNat = 8 ∨ s.nonceLen.toNat = 24) (hl : s.len.toNat ≤ Config.dbufBytes) :
    exec (.salsa20Stream ks) s = .next (completeCommand (effectOf s (.salsa20Stream ks))) := by
  refine exec_completed ?_
  rw [checksOf, checkCipherKey_none.mpr hk, checkNonce_none.mpr (by simpa using hn), checkLen_none.mpr hl]
  rfl

theorem exec_chacha20Stream (ks : Bool) {s : State} (hk : s.keyLen.toNat = 32)
    (hn : s.nonceLen.toNat = 12 ∨ s.nonceLen.toNat = 24) (hl : s.len.toNat ≤ Config.dbufBytes)
    (hr : s.len.toNat = 0 ∨ s.pos.toNat + s.len.toNat ≤ Config.chachaLimit) :
    exec (.chacha20Stream ks) s = .next (completeCommand (effectOf s (.chacha20Stream ks))) := by
  refine exec_completed ?_
  rw [checksOf, checkCipherKey_none.mpr hk, checkNonce_none.mpr (by simpa using hn), checkLen_none.mpr hl,
    checkRange_none.mpr hr]
  rfl

/-- A position moved on, as a number: the sum modulo 2^70 (43_pos_xor.md rules R202, R203). -/
theorem pos_add_toNat (p : Pos) (t : Nat) : (p + BitVec.ofNat 70 t).toNat = (p.toNat + t) % 2 ^ 70 := by
  rw [BitVec.toNat_add, BitVec.toNat_ofNat, Nat.add_mod_mod]

theorem pos_add_eq_ofNat (p : Pos) (t : Nat) : p + BitVec.ofNat 70 t = BitVec.ofNat 70 ((p.toNat + t) % 2 ^ 70) := by
  rw [← pos_add_toNat, BitVec.ofNat_toNat, BitVec.setWidth_eq]

/-! ### SALSA20_STREAM's loop (rules R149, R150, R151) -/

theorem ksSalsa_eq_salsaByteAt (K N : List Byte) (q : Pos) : ksSalsa K N q = Spec.salsaByteAt K N q.toNat := by
  rw [ksSalsa, Spec.salsaByteAt, intraOffset_toNat, ← blockIndex_toNat, BitVec.ofNat_toNat, BitVec.setWidth_eq]

theorem nonceOperand_length {s : State} (h : s.nonceLen.toNat ≤ 24) : (nonceOperand s).length = s.nonceLen.toNat := by
  rw [nonceOperand, List.length_take_of_le (by rwa [Vector.length_toList])]

/-- An 8-byte nonce selects the key and nonce themselves, a 24-byte nonce the subkey and the nonce's last 8 bytes. -/
theorem selSalsa_operands {s : State} (hn : s.nonceLen.toNat = 8 ∨ s.nonceLen.toNat = 24) :
    selSalsa (cipherKey s) (nonceOperand s) = Spec.salsaKeyNonce s := by
  rw [selSalsa, nonceOperand_length (by omega), Spec.salsaKeyNonce]
  rcases hn with h | h
  · rw [if_neg (by omega), if_neg (by omega), nonceOperand, h, cipherKey]
  · rw [if_pos h, if_pos h, nonceOperand, h, List.take_take, List.drop_take, cipherKey]
    rfl

theorem salsaKeystream_eq {s : State} (hn : s.nonceLen.toNat = 8 ∨ s.nonceLen.toNat = 24) :
    salsaKeystream s = (List.range s.len.toNat).map fun t =>
      Spec.salsaByteAt (Spec.salsaKeyNonce s).1 (Spec.salsaKeyNonce s).2 ((s.pos.toNat + t) % 2 ^ 70) := by
  rw [salsaKeystream, selSalsa_operands hn, streamPositions, List.map_map]
  refine List.map_congr_left fun t _ => ?_
  rw [Function.comp_apply, ksSalsa_eq_salsaByteAt, pos_add_toNat]

/-- Settles O37. -/
theorem salsa20StreamRunsTheLoop : Obligations.Salsa20StreamRunsTheLoop := by
  intro ks s hk hn hl
  rw [exec_salsa20Stream ks hk hn hl, ← mergeDbuf_map_range, ← salsaKeystream_eq hn, ← pos_add_eq_ofNat]
  rfl

/-! ### A keystream byte (rules R155, R185) -/

theorem len_le_of_checks {s : State} {i : Instr} (h : firstError (checksOf s i) = none)
    (hmem : checkLen s ∈ checksOf s i) : s.len.toNat ≤ Config.dbufBytes :=
  checkLen_none.mp ((firstError_eq_none _).mp h _ hmem)

/-- With KS = 1 a merge leaves the keystream byte itself. -/
theorem mergeDbuf_true_getElem? {stream : List Byte} {s : State} {k : Nat} (hk : k < stream.length)
    (hfit : k < Config.dbufBytes) : (mergeDbuf true stream s).dbuf[k]? = some (stream.getD k 0) := by
  rw [mergeDbuf_getElem? true stream s hfit, if_pos hk, merge_true]

/-- The byte a completed keystream-only SALSA20_STREAM leaves at `DBUF[k]`. -/
theorem salsa20Stream_true_getElem? {s t : State} {k : Nat} (h : exec (.salsa20Stream true) s = .next t)
    (he : t.status.err = false) (hk : k < s.len.toNat) : t.dbuf[k]? =
      some (ksSalsa (selSalsa (cipherKey s) (nonceOperand s)).1 (selSalsa (cipherKey s) (nonceOperand s)).2
        (s.pos + BitVec.ofNat 70 k)) := by
  obtain ⟨hc, rfl⟩ := exec_done h he
  have hl := len_le_of_checks hc (by simp [checksOf])
  rw [completeCommand_dbuf, effectOf_dbuf_salsa,
    mergeDbuf_true_getElem? (by rwa [salsaKeystream_length]) (by omega), salsaKeystream_getD s hk]

/-- The byte a completed keystream-only CHACHA20_STREAM leaves at `DBUF[k]`. -/
theorem chacha20Stream_true_getElem? {s t : State} {k : Nat} (h : exec (.chacha20Stream true) s = .next t)
    (he : t.status.err = false) (hk : k < s.len.toNat) : t.dbuf[k]? =
      some (ksChacha (selChacha (cipherKey s) (nonceOperand s)).1 (selChacha (cipherKey s) (nonceOperand s)).2
        (s.pos + BitVec.ofNat 70 k)) := by
  obtain ⟨hc, rfl⟩ := exec_done h he
  have hl := len_le_of_checks hc (by simp [checksOf])
  rw [completeCommand_dbuf, effectOf_dbuf_chacha,
    mergeDbuf_true_getElem? (by rwa [chachaKeystream_length]) (by omega), chachaKeystream_getD s hk]

/-- Settles O41: the byte is a function of the selected key and nonce and of the position. -/
theorem keystreamByteDependsOnKeyNoncePosition : Obligations.KeystreamByteDependsOnKeyNoncePosition := by
  intro i s₁ s₂ t₁ t₂ k₁ k₂ hi h₁ h₂ he₁ he₂ hkey _ hnonce hk₁ hk₂ hpos
  have hkey : cipherKey s₁ = cipherKey s₂ := hkey
  have hnonce : nonceOperand s₁ = nonceOperand s₂ := hnonce
  have hpos : s₁.pos + BitVec.ofNat 70 k₁ = s₂.pos + BitVec.ofNat 70 k₂ := by
    rw [pos_add_eq_ofNat, pos_add_eq_ofNat, hpos]
  rcases hi with rfl | rfl
  · rw [salsa20Stream_true_getElem? h₁ he₁ hk₁, salsa20Stream_true_getElem? h₂ he₂ hk₂, hkey, hnonce, hpos]
  · rw [chacha20Stream_true_getElem? h₁ he₁ hk₁, chacha20Stream_true_getElem? h₂ he₂ hk₂, hkey, hnonce, hpos]

/-! ### The extended nonce (rules R149, R177) -/

/-- The state in which the host has copied a key and a nonce of `n` bytes to KEY and NONCE. -/
def withKeyNonce (K N : List Byte) (n : BitVec 5) (s : State) : State :=
  { s with key := storeBytes s.key K, nonce := storeBytes s.nonce N, nonceLen := n }

theorem cipherKey_withKeyNonce {K : List Byte} (hK : K.length = 32) (N : List Byte) (n : BitVec 5) (s : State) :
    cipherKey (withKeyNonce K N n s) = K :=
  (storeBytes_take_drop s.key hK (by decide)).1

theorem nonceOperand_withKeyNonce (K : List Byte) {N : List Byte} {n : BitVec 5} (hN : N.length = n.toNat)
    (hn : n.toNat ≤ 24) (s : State) : nonceOperand (withKeyNonce K N n s) = N :=
  (storeBytes_take_drop s.nonce hN hn).1

theorem nonceOperand_of_24 {s : State} (h : s.nonceLen.toNat = 24) : nonceOperand s = s.nonce.toList := by
  rw [nonceOperand, h, List.take_of_length_le (by rw [Vector.length_toList])]

/-- The subkey an H-command leaves in `DBUF[0..31]`. -/
theorem dbufStored_take {bs : List Byte} (hbs : bs.length = 32) (s : State) :
    (dbufStored bs s).dbuf.toList.take 32 = bs :=
  (storeBytes_take_drop s.dbuf hbs subkey_fits).1

/-- The state in which the host has copied HSALSA20's subkey and the sub-nonce (rule R149). -/
def salsaComposed (s : State) : State :=
  withKeyNonce (hsalsa20 (cipherKey s) (nonce16 s)) (s.nonce.toList.drop 16) 8 s

/-- The state in which the host has copied HCHACHA20's subkey and the sub-nonce (42_chacha20.md rule R177). -/
def chachaComposed (s : State) : State :=
  withKeyNonce (hchacha20 (cipherKey s) (nonce16 s)) ([0, 0, 0, 0] ++ s.nonce.toList.drop 16) 12 s

/-- The direct stream's keystream there is the extended stream's: both select the same key and nonce. -/
theorem salsaKeystream_salsaComposed {s : State} (hn : s.nonceLen.toNat = 24) :
    salsaKeystream (salsaComposed s) = salsaKeystream s := by
  have hshort : (s.nonce.toList.drop 16).length = 8 := by simp
  have hlong : s.nonce.toList.length = 24 := Vector.length_toList
  rw [salsaComposed, salsaKeystream, salsaKeystream, cipherKey_withKeyNonce (hsalsa20_length _ _),
    nonceOperand_withKeyNonce _ hshort (by decide), nonceOperand_of_24 hn, selSalsa, if_neg (by omega), selSalsa,
    if_pos hlong, nonce16]
  rfl

@[inherit_doc salsaKeystream_salsaComposed]
theorem chachaKeystream_chachaComposed {s : State} (hn : s.nonceLen.toNat = 24) :
    chachaKeystream (chachaComposed s) = chachaKeystream s := by
  have hshort : ([0, 0, 0, 0] ++ s.nonce.toList.drop 16).length = 12 := by simp
  have hlong : s.nonce.toList.length = 24 := Vector.length_toList
  rw [chachaComposed, chachaKeystream, chachaKeystream, cipherKey_withKeyNonce (hchacha20_length _ _),
    nonceOperand_withKeyNonce _ hshort (by decide), nonceOperand_of_24 hn, selChacha, if_neg (by omega), selChacha,
    if_pos hlong, nonce16]
  rfl

/-- The same keystream merged into the same DBUF leaves the same bytes. -/
theorem effectOf_dbuf_salsaComposed (ks : Bool) {s : State} (hn : s.nonceLen.toNat = 24) :
    (effectOf (salsaComposed s) (.salsa20Stream ks)).dbuf = (effectOf s (.salsa20Stream ks)).dbuf := by
  rw [effectOf_dbuf_salsa, effectOf_dbuf_salsa, mergeDbuf_dbuf, mergeDbuf_dbuf, salsaKeystream_salsaComposed hn]
  rfl

@[inherit_doc effectOf_dbuf_salsaComposed]
theorem effectOf_dbuf_chachaComposed (ks : Bool) {s : State} (hn : s.nonceLen.toNat = 24) :
    (effectOf (chachaComposed s) (.chacha20Stream ks)).dbuf = (effectOf s (.chacha20Stream ks)).dbuf := by
  rw [effectOf_dbuf_chacha, effectOf_dbuf_chacha, mergeDbuf_dbuf, mergeDbuf_dbuf, chachaKeystream_chachaComposed hn]
  rfl

theorem effectOf_pos_withKeyNonce (K N : List Byte) (n : BitVec 5) (s : State) (i : Instr) :
    (effectOf (withKeyNonce K N n s) i).pos = (effectOf s i).pos := by
  rw [effectOf_pos, effectOf_pos]
  rfl

/-- Settles O44: the H-command leaves the subkey (`dbufStored_take`), so the direct stream runs in the composed
state. -/
theorem extendedNonceEqualsHostComposition : Obligations.ExtendedNonceEqualsHostComposition := by
  intro ks s hk hn hl
  refine ⟨?salsa, fun hr => ?chacha⟩
  case salsa =>
    refine ⟨_, _, completeCommand (effectOf (salsaComposed s) (.salsa20Stream ks)), exec_hsalsa20 hk rfl, rfl,
      exec_salsa20Stream ks hk (.inr hn) hl, rfl, ?_, rfl, ?_, ?_⟩
    · rw [dbufStored_take (hsalsa20_length _ _)]
      exact exec_salsa20Stream ks (s := salsaComposed s) hk (.inl rfl) hl
    · rw [completeCommand_dbuf, completeCommand_dbuf, effectOf_dbuf_salsaComposed ks hn]
    · rw [completeCommand_pos, completeCommand_pos, salsaComposed, effectOf_pos_withKeyNonce]
  case chacha =>
    refine ⟨_, _, completeCommand (effectOf (chachaComposed s) (.chacha20Stream ks)), exec_hchacha20 hk rfl, rfl,
      exec_chacha20Stream ks hk (.inr hn) hl hr, rfl, ?_, rfl, ?_, ?_⟩
    · rw [dbufStored_take (hchacha20_length _ _)]
      exact exec_chacha20Stream ks (s := chachaComposed s) hk (.inl rfl) hl hr
    · rw [completeCommand_dbuf, completeCommand_dbuf, effectOf_dbuf_chachaComposed ks hn]
    · rw [completeCommand_pos, completeCommand_pos, chachaComposed, effectOf_pos_withKeyNonce]

end Sys2Proof.Machine
end

section
/-! PROOFS. The ChaCha20 quarter-round line by line, and CHACHA20_STREAM as the loop over its positions (family
42_chacha20.md). -/

namespace Sys2Proof.Machine

/-! ## The lines of the ChaCha20 quarter-round (rule R171) -/

theorem qrChacha_eq_chachaLines (a b c d : Fin 16) (x : Block) :
    qrChacha a b c d x = chachaLine c d b 7 (chachaLine a b d 8 (chachaLine c d b 12 (chachaLine a b d 16 x))) := rfl

/-- The word a line adds to. -/
theorem chachaLine_getElem_sum {a d : Fin 16} (b : Fin 16) (n : Nat) (x : Block) (h : a ≠ d) :
    (chachaLine a b d n x)[a] = x[a] + x[b] := by
  simp only [chachaLine, block_getElem_set, if_neg h.symm, if_pos]

/-- The word a line rotates: the sum is already in `x[a]` when it is read. -/
theorem chachaLine_getElem_rotated {a d : Fin 16} (b : Fin 16) {n : Nat} (hn : n < 32) (x : Block) (h : a ≠ d) :
    (chachaLine a b d n x)[d] = (x[d] ^^^ (x[a] + x[b])).rotateLeft n := by
  simp only [chachaLine, block_getElem_set, if_neg h, if_pos, rotl32_eq_rotateLeft _ hn]

theorem chachaLine_getElem_of_ne {a d k : Fin 16} (b : Fin 16) (n : Nat) (x : Block) (ha : a ≠ k) (hd : d ≠ k) :
    (chachaLine a b d n x)[k] = x[k] := by
  simp only [chachaLine, block_getElem_set, if_neg ha, if_neg hd]

/-- Settles O25: each of the four lines writes two of the four words and leaves the other two to the lines after it. -/
theorem chachaQuarterRound : Obligations.ChachaQuarterRound := by
  intro a b c d x hnodup
  simp only [List.nodup_cons, List.mem_cons, List.not_mem_nil, or_false, not_or, not_false_eq_true, List.nodup_nil,
    and_true] at hnodup
  obtain ⟨⟨hab, hac, had⟩, ⟨hbc, hbd⟩, hcd⟩ := hnodup
  rintro _ _ _ _ _ _ _ _ rfl rfl rfl rfl rfl rfl rfl rfl
  rw [qrChacha_eq_chachaLines]
  refine ⟨?_, ?_, ?_, ?_, fun k hk => ?frame⟩
  case frame =>
    simp only [List.mem_cons, List.not_mem_nil, or_false, not_or] at hk
    obtain ⟨ha, hb, hc, hd⟩ := hk
    have hline_ab (n : Nat) (y : Block) := chachaLine_getElem_of_ne b n y (Ne.symm ha) (Ne.symm hd)
    have hline_cd (n : Nat) (y : Block) := chachaLine_getElem_of_ne d n y (Ne.symm hc) (Ne.symm hb)
    rw [hline_cd, hline_ab, hline_cd, hline_ab]
  all_goals simp only [chachaLine_getElem_sum, chachaLine_getElem_rotated, chachaLine_getElem_of_ne, ne_eq, hab, hac,
    had, hbd, hcd, Ne.symm hab, Ne.symm hac, Ne.symm hbc, Ne.symm hbd, Ne.symm hcd, not_false_eq_true, Nat.reduceLT]

/-! ## CHACHA20_STREAM's loop (rules R177, R178, R179) -/

/-- The block counter, the low 32 bits of the block index, is `q / 64` modulo 2^32 at every position. -/
theorem ksChacha_eq_chachaByteAt (K N : List Byte) (q : Pos) : ksChacha K N q = Spec.chachaByteAt K N q.toNat := by
  have hcounter : (blockIndex q).extractLsb' 0 32 = BitVec.ofNat 32 (q.toNat / 64) := by
    rw [BitVec.extractLsb', blockIndex_toNat, Nat.shiftRight_zero]
  rw [ksChacha, Spec.chachaByteAt, intraOffset_toNat, hcounter]

/-- A 12-byte nonce selects the key and nonce themselves, a 24-byte nonce the subkey and the nonce's last 8 bytes after
four zero bytes. -/
theorem selChacha_operands {s : State} (hn : s.nonceLen.toNat = 12 ∨ s.nonceLen.toNat = 24) :
    selChacha (cipherKey s) (nonceOperand s) = Spec.chachaKeyNonce s := by
  rw [selChacha, nonceOperand_length (by omega), Spec.chachaKeyNonce]
  rcases hn with h | h
  · rw [if_neg (by omega), if_neg (by omega), nonceOperand, h, cipherKey]
  · rw [if_pos h, if_pos h, nonceOperand, h, List.take_take, List.drop_take, cipherKey]
    rfl

/-- A range that does not pass 2^70 holds the positions POS, POS + 1, ... themselves. -/
theorem chachaKeystream_eq {s : State} (hn : s.nonceLen.toNat = 12 ∨ s.nonceLen.toNat = 24)
    (hfit : s.pos.toNat + s.len.toNat < 2 ^ 70) :
    chachaKeystream s = (List.range s.len.toNat).map fun t =>
      Spec.chachaByteAt (Spec.chachaKeyNonce s).1 (Spec.chachaKeyNonce s).2 (s.pos.toNat + t) := by
  rw [chachaKeystream, selChacha_operands hn, streamPositions, List.map_map]
  refine List.map_congr_left fun t ht => ?_
  have ht := List.mem_range.mp ht
  rw [Function.comp_apply, ksChacha_eq_chachaByteAt, pos_add_toNat, Nat.mod_eq_of_lt (by omega)]

/-- Settles O38: the range check keeps every position below 2^38, so neither a position nor a block counter wraps; an
empty range leaves POS where it is. -/
theorem chacha20StreamRunsTheLoop : Obligations.Chacha20StreamRunsTheLoop := by
  intro ks s hk hn hl hr
  have hfit : s.pos.toNat + s.len.toNat < 2 ^ 70 := by
    rcases hr with hempty | hrange
    · rw [hempty]
      exact s.pos.isLt
    · omega
  refine ⟨?_, hfit, fun t ht => by omega⟩
  rw [exec_chacha20Stream ks hk hn hl hr, ← mergeDbuf_map_range, ← chachaKeystream_eq hn hfit,
    ← Nat.mod_eq_of_lt hfit, ← pos_add_eq_ofNat]
  rfl

end Sys2Proof.Machine
end

section
/-! PROOFS. The position decoder, the XOR merge unit, and what they make of a stream command: its chunks and its second
pass (family 43_pos_xor.md). -/

namespace Sys2Proof.Machine

/-! ## The position decoder (rules R200, R201) -/

/-- The half of the block index that feeds word 8 of Salsa20, word 12 of ChaCha20 and BLK0. -/
theorem blockIndexLow_toNat (q : Pos) : ((blockIndex q).extractLsb' 0 32).toNat = q.toNat / 64 % 2 ^ 32 := by
  rw [BitVec.extractLsb'_toNat, blockIndex_toNat, Nat.shiftRight_zero]

/-- The half of the block index that feeds word 9 of Salsa20 and BLK1. -/
theorem blockIndexHigh_toNat (q : Pos) : ((blockIndex q).extractLsb' 32 32).toNat = q.toNat / 64 / 2 ^ 32 := by
  rw [BitVec.extractLsb'_toNat, blockIndex_toNat, Nat.shiftRight_eq_div_pow]
  omega

/-- Settles O21: the counter words are the two halves of the block index, and the views read them. -/
theorem positionDecoderDividesBy64 : Obligations.PositionDecoderDividesBy64 := by
  intro q
  refine ⟨blockIndex_toNat q, intraOffset_toNat q, rfl, rfl, fun K N => ?feeds, fun s hs => ?views⟩
  case feeds =>
    exact ⟨rfl, blockIndexLow_toNat q, blockIndexHigh_toNat q, (blockIndex q).extractLsb' 0 32, rfl, rfl,
      blockIndexLow_toNat q⟩
  case views =>
    subst hs
    obtain ⟨hlow, hhigh, hoffs⟩ := decoderViewsFollowPosition.1 s
    rw [hlow, hhigh, hoffs, blockIndex_toNat, intraOffset_toNat]
    exact ⟨Nat.mod_add_div _ _, rfl⟩

theorem pos_toNat_eq_block_offset (q : Pos) : q.toNat = 64 * (blockIndex q).toNat + (intraOffset q).toNat := by
  rw [blockIndex_toNat, intraOffset_toNat, Nat.div_add_mod]

/-- The position that the decoder takes to a given block and offset: the offset is its low six bits. -/
theorem blockIndex_intraOffset_append (b : BitVec 64) (o : BitVec 6) :
    blockIndex (b ++ o : Pos) = b ∧ intraOffset (b ++ o : Pos) = o :=
  ⟨BitVec.extractLsb'_append_eq_left, BitVec.extractLsb'_append_eq_right⟩

theorem pos_succ_toNat (q : Pos) : (q + 1).toNat = (q.toNat + 1) % 2 ^ 70 := pos_add_toNat q 1

/-- Settles O22: as numbers, `q + 1` carries into the block index when the offset is 63. -/
theorem positionDecoderIsABijection : Obligations.PositionDecoderIsABijection := by
  refine ⟨pos_toNat_eq_block_offset, fun b o => ⟨b ++ o, blockIndex_intraOffset_append b o⟩, fun q hq => ?inside,
    fun q hq => ?carry⟩
  case inside =>
    have hlt := q.isLt
    rw [intraOffset_toNat] at hq
    rw [← BitVec.toNat_inj, blockIndex_toNat, blockIndex_toNat, intraOffset_toNat, intraOffset_toNat, pos_succ_toNat]
    omega
  case carry =>
    rw [intraOffset_toNat] at hq
    rw [← BitVec.toNat_inj, ← BitVec.toNat_inj, BitVec.toNat_add, blockIndex_toNat, blockIndex_toNat,
      intraOffset_toNat, pos_succ_toNat]
    simp only [BitVec.reduceToNat]
    omega

/-! ## The XOR merge unit (rules R204, R206) -/

/-- Settles O23. -/
theorem mergeIsXorOrKeystream : Obligations.MergeIsXorOrKeystream :=
  fun d k => ⟨merge_false d k, merge_true d k, merge_merge d k⟩

/-- Two KS = 0 passes with the same keystream bytes restore every byte of DBUF. -/
theorem streamLoop_streamLoop (f : Nat → Byte) (d : Vector Byte Config.dbufBytes) (n : Nat) :
    Spec.streamLoop false f (Spec.streamLoop false f d n) n = d := by
  refine Vector.ext fun k hk => Option.some_inj.mp ?_
  rw [← Vector.getElem?_eq_getElem, ← Vector.getElem?_eq_getElem, streamLoop_getElem?, streamLoop_getElem?,
    Vector.getElem?_eq_getElem hk]
  split
  · exact congrArg some (merge_merge _ _)
  · rfl

/-- A command has one outcome. -/
theorem exec_unique {i : Instr} {s t u : State} (ht : exec i s = .next t) (hu : exec i s = .next u) : t = u :=
  Host.Outcome.next.inj (ht.symm.trans hu)

/-! ## The stream commands that read POS (rules R202, R203, R205) -/

/-- The keystream byte at a position, for the key and nonce a stream command reads; 0 for a command that has no
position. -/
def posKeystream (K N : List Byte) (q : Pos) : Instr → Byte
  | .salsa20Stream _ => ksSalsa (selSalsa K N).1 (selSalsa K N).2 q
  | .chacha20Stream _ => ksChacha (selChacha K N).1 (selChacha K N).2 q
  | _ => 0

/-- Byte `k` of a stream command's keystream, the byte at POS + k. -/
def posStreamByte (i : Instr) (s : State) (k : Nat) : Byte :=
  posKeystream (cipherKey s) (nonceOperand s) (s.pos + BitVec.ofNat 70 k) i

theorem salsaKeystream_eq_posStreamBytes (ks : Bool) (s : State) :
    salsaKeystream s = (List.range s.len.toNat).map (posStreamByte (.salsa20Stream ks) s) := by
  rw [salsaKeystream, streamPositions, List.map_map]
  exact List.map_congr_left fun k _ => by rw [Function.comp_apply, posStreamByte, posKeystream]

theorem chachaKeystream_eq_posStreamBytes (ks : Bool) (s : State) :
    chachaKeystream s = (List.range s.len.toNat).map (posStreamByte (.chacha20Stream ks) s) := by
  rw [chachaKeystream, streamPositions, List.map_map]
  exact List.map_congr_left fun k _ => by rw [Function.comp_apply, posStreamByte, posKeystream]

/-- The state a completed SALSA20_STREAM or CHACHA20_STREAM leaves. -/
def posStreamDone (i : Instr) (ks : Bool) (s : State) : State :=
  { s with
    dbuf := Spec.streamLoop ks (posStreamByte i s) s.dbuf s.len.toNat
    pos := s.pos + BitVec.ofNat 70 s.len.toNat
    status := Spec.completed s.status }

section
variable {i : Instr} {ks : Bool} (hi : i = .salsa20Stream ks ∨ i = .chacha20Stream ks)
include hi

theorem exec_posStream {s : State} (hc : firstError (checksOf s i) = none) :
    exec i s = .next (posStreamDone i ks s) := by
  rw [exec_completed hc, posStreamDone, ← mergeDbuf_map_range]
  rcases hi with rfl | rfl
  · rw [← salsaKeystream_eq_posStreamBytes]
    rfl
  · rw [← chachaKeystream_eq_posStreamBytes]
    rfl

/-- A stream command that ended without ERR has passed its checks, and this is its state. -/
theorem posStream_done {s t : State} (h : exec i s = .next t) (he : t.status.err = false) :
    firstError (checksOf s i) = none ∧ t = posStreamDone i ks s := by
  obtain ⟨hc, -⟩ := exec_done h he
  exact ⟨hc, exec_unique h (exec_posStream hi hc)⟩

/-- The checks pass for every range that fits and ends no later than one they pass for: of POS and LEN they bound only
the length and the end. -/
theorem posStream_checks_subrange {s t : State} (hs : firstError (checksOf s i) = none) (hkey : t.keyLen = s.keyLen)
    (hnonce : t.nonceLen = s.nonceLen) (hlen : t.len.toNat ≤ s.len.toNat)
    (hend : t.pos.toNat + t.len.toNat ≤ s.pos.toNat + s.len.toNat) : firstError (checksOf t i) = none := by
  rcases hi with rfl | rfl
  all_goals
    simp only [checksOf, firstError_eq_none, List.forall_mem_cons, List.not_mem_nil, false_imp_iff, implies_true,
      and_true, checkCipherKey_none, checkNonce_none, checkLen_none, checkRange_none, hkey, hnonce] at hs ⊢
  · obtain ⟨hk, hn, hl⟩ := hs
    exact ⟨hk, hn, hlen.trans hl⟩
  · obtain ⟨hk, hn, hl, hr⟩ := hs
    exact ⟨hk, hn, hlen.trans hl, by omega⟩

end

/-- A byte inside a completed stream command's range. -/
theorem posStreamDone_getElem? (i : Instr) (ks : Bool) {s : State} {k : Nat} (hk : k < s.len.toNat) :
    (posStreamDone i ks s).dbuf[k]? = s.dbuf[k]?.map fun b => merge b (posStreamByte i s k) ks := by
  rw [posStreamDone, streamLoop_getElem?, if_pos hk]

/-! ### Chunks (rules R203, R207) -/

theorem pos_add_add (p : Pos) (a b : Nat) :
    p + BitVec.ofNat 70 a + BitVec.ofNat 70 b = p + BitVec.ofNat 70 (a + b) := by
  rw [BitVec.add_assoc, BitVec.ofNat_add]

theorem len_toNat {n : Nat} (h : n < 65536) : (BitVec.ofNat 16 n).toNat = n := by
  rw [BitVec.toNat_ofNat, Nat.mod_eq_of_lt h]

/-- Settles O42: both chunks' ranges lie in the whole one, and the second starts where the first left POS. -/
theorem streamChunksContinueThePosition : Obligations.StreamChunksContinueThePosition := by
  intro i ks s t t₁ t₂ a b d hi _ h16 hd ht he ht₁ ht₂
  have hab := len_toNat h16
  have ha := len_toNat (n := a) (by omega)
  have hb := len_toNat (n := b) (by omega)
  obtain ⟨hc, rfl⟩ := posStream_done hi ht he
  obtain rfl := exec_unique ht₁ (exec_posStream hi
    (posStream_checks_subrange hi hc rfl rfl (by simp only; omega) (by simp only; omega)))
  have hend : (s.pos + BitVec.ofNat 70 a).toNat ≤ s.pos.toNat + a := pos_add_toNat s.pos a ▸ Nat.mod_le _ _
  obtain rfl := exec_unique ht₂ (exec_posStream hi
    (posStream_checks_subrange hi hc rfl rfl (by simp only; omega) (by simp only [posStreamDone, ha, hb, hab]; omega)))
  refine ⟨rfl, rfl, ?pos, fun k hk => ?first, fun k hk => ?second⟩
  case pos =>
    simp only [posStreamDone, ha, hb, hab, pos_add_add]
  case first =>
    rw [posStreamDone_getElem? i ks (by rw [hab]; omega), posStreamDone_getElem? i ks (by rwa [ha])]
    rfl
  case second =>
    rw [posStreamDone_getElem? i ks (by rw [hab]; omega), posStreamDone_getElem? i ks (by rwa [hb]), hd k hk]
    simp only [posStreamByte, posStreamDone, ha, pos_add_add]
    rfl

/-- Settles O43: the second command's keystream is the first's, from the same POS or from the same key schedule, so its
merge undoes the first (`streamLoop_streamLoop`). -/
theorem secondPassRestoresTheData : Obligations.SecondPassRestoresTheData := by
  refine ⟨fun i s t u hi ht he hu => ?pos, fun s t₁ t₂ t₃ t₄ h₁ he₁ h₂ he₂ h₃ h₄ => ?rc4⟩
  case pos =>
    obtain ⟨hc, rfl⟩ := posStream_done hi ht he
    obtain rfl := exec_unique hu (exec_posStream hi (posStream_checks_subrange hi hc rfl rfl le_rfl le_rfl))
    exact streamLoop_streamLoop (posStreamByte i s) s.dbuf s.len.toNat
  case rc4 =>
    obtain ⟨hkey, rfl⟩ := exec_done h₁ he₁
    have hlen := len_le_of_checks (exec_done h₂ he₂).1 (by simp [checksOf])
    obtain rfl := exec_unique h₂ (exec_rc4Prga false hlen rfl)
    obtain rfl := exec_unique h₃ (exec_completed hkey)
    obtain rfl := exec_unique h₄ (exec_rc4Prga false hlen rfl)
    exact streamLoop_streamLoop (prgaByte ⟨ksa (rc4Key s), 0, 0⟩) s.dbuf s.len.toNat

end Sys2Proof.Machine
end

section
/-! PROOFS. Command errors: which check a due command reports, what a rejection leaves alone, how long ERR and ERRCODE
stay, and that every reachable state runs on (family 60_exceptions.md). -/

namespace Sys2Proof.Machine

/-! ## The checks as the table of rule R228 -/

/-- The outcome of a check that raises `e` when it fails. -/
def raiseIf (e : CmdError) (fails : Bool) : Option CmdError := if fails then some e else none

@[simp] theorem raiseIf_false (e : CmdError) : raiseIf e false = none := rfl

theorem firstError_cons (c : Option CmdError) (rest : List (Option CmdError)) :
    firstError (c :: rest) = c.or (firstError rest) := by
  cases c <;> rfl

theorem checkRc4Key_eq (s : State) :
    checkRc4Key s = raiseIf .keyLen (s.keyLen.toNat == 0 || decide (256 < s.keyLen.toNat)) := by
  by_cases h : 1 ≤ s.keyLen.toNat ∧ s.keyLen.toNat ≤ 256
  · rw [checkRc4Key_none.mpr h, decide_eq_false (by omega), beq_eq_false_iff_ne.mpr (by omega)]
    rfl
  · rw [checkRc4Key, if_neg h, raiseIf, if_pos (by simp; omega)]

theorem checkCipherKey_eq (s : State) : checkCipherKey s = raiseIf .keyLen (s.keyLen.toNat != 32) := by
  simp [checkCipherKey, raiseIf]

theorem checkNonce_eq (l : List Nat) (s : State) :
    checkNonce l s = raiseIf .nonceLen (l.all (s.nonceLen.toNat != ·)) := by
  by_cases h : s.nonceLen.toNat ∈ l
  · rw [checkNonce_none.mpr h, raiseIf, if_neg (by simpa using h)]
  · have hall : l.all (s.nonceLen.toNat != ·) = true :=
      List.all_eq_true.mpr fun x hx => bne_iff_ne.mpr fun he => h (he ▸ hx)
    rw [checkNonce, if_neg h, raiseIf, if_pos hall]

theorem checkLen_eq (s : State) : checkLen s = raiseIf .len (decide (Config.dbufBytes < s.len.toNat)) := by
  by_cases h : s.len.toNat ≤ Config.dbufBytes
  · rw [checkLen_none.mpr h, decide_eq_false (by omega), raiseIf_false]
  · rw [checkLen, if_neg h, raiseIf, if_pos (by simpa using h)]

theorem checkRc4State_eq (s : State) : checkRc4State s = raiseIf .noState (!s.status.rc4v) := by
  cases h : s.status.rc4v <;> simp [checkRc4State, raiseIf, h]

theorem checkRange_eq (s : State) :
    checkRange s = raiseIf .ctrRange (decide (0 < s.len.toNat ∧ 2 ^ 38 ≤ s.pos.toNat + s.len.toNat - 1)) := by
  rw [raiseIf]
  simp only [decide_eq_true_eq]
  rfl

/-- Checks 2 to 6 of rule R228's table, for every command; one that a command does not perform never fails. -/
def tableChecks (s : State) (i : Instr) : List (Option CmdError) :=
  [raiseIf .keyLen (Spec.keyLenFails s i), raiseIf .nonceLen (Spec.nonceLenFails s i),
    raiseIf .len (Spec.lenFails s i), raiseIf .noState (Spec.noStateFails s i),
    raiseIf .ctrRange (Spec.ctrRangeFails s i)]

/-- A command's own checks find what the whole table finds. -/
theorem firstError_checksOf (s : State) (i : Instr) : firstError (checksOf s i) = firstError (tableChecks s i) := by
  cases i <;>
    simp only [tableChecks, checksOf, Spec.keyLenFails, Spec.nonceLenFails, Spec.lenFails, Spec.noStateFails,
      Spec.ctrRangeFails, checkRc4Key_eq, checkCipherKey_eq, checkNonce_eq, checkLen_eq, checkRc4State_eq,
      checkRange_eq, raiseIf_false, firstError_cons, firstError_nil, List.all_cons, List.all_nil, Bool.and_true,
      Option.none_or, Option.or_none]

/-- The code of what the checks found; 0 if they found nothing. -/
def foundCode : Option CmdError → BitVec 4
  | some e => e.code
  | none => 0

theorem foundCode_firstError_raiseIf (e : CmdError) (fails : Bool) (rest : List (Option CmdError)) :
    foundCode (firstError (raiseIf e fails :: rest)) = if fails then e.code else foundCode (firstError rest) := by
  cases fails <;> rfl

/-- 0 is no error's code. -/
theorem foundCode_eq_zero {found : Option CmdError} : foundCode found = 0 ↔ found = none := by
  rcases found with _ | (_ | _ | _ | _ | _ | _) <;> decide

/-- The spec's first failing code is that of the model's first error. -/
theorem firstFailingCode_eq (s : State) (i : Instr) :
    Spec.firstFailingCode s i = foundCode (firstError (checksOf s i)) := by
  rw [firstError_checksOf, tableChecks]
  simp only [foundCode_firstError_raiseIf]
  rfl

/-! ## The end of a due command -/

/-- STATUS after a completed command (rule R230): RC4V is set by RC4_KSA and kept by the others. -/
theorem completeCommand_effectOf_status (s : State) (i : Instr) : (completeCommand (effectOf s i)).status =
    { Spec.completed s.status with rc4v := s.status.rc4v || i == .rc4Ksa } := by
  rw [completeCommand_status, effectOf_status]
  by_cases hi : i = .rc4Ksa
  · simp [hi, Status.complete, Status.schedule, Spec.completed]
  · simp [hi, Status.complete, Spec.completed]

/-- Settles O45: the first failing code is that of the first error (`firstFailingCode_eq`), and 0 means that there is
none. -/
theorem firstFailingCheckIsReported : Obligations.FirstFailingCheckIsReported := by
  refine fun s hdue => ⟨fun e hd => step_illegal hdue hd, fun i hd hcode => ?rejected, fun i hd hcode => ?completed⟩
  all_goals
    rw [step_decoded (nextTurn_command.mpr hdue) hd]
    rw [firstFailingCode_eq] at hcode
  case rejected =>
    obtain ⟨e, hc⟩ := Option.ne_none_iff_exists'.mp (mt foundCode_eq_zero.mpr hcode)
    rw [exec_rejected hc, firstFailingCode_eq, hc]
    rfl
  case completed =>
    exact ⟨_, exec_completed (foundCode_eq_zero.mp hcode), completeCommand_effectOf_status s i⟩

/-- Settles O46: a completed command ends with ERR = 0, so the command was rejected. -/
theorem rejectedCommandChangesOnlyStatus : Obligations.RejectedCommandChangesOnlyStatus := by
  intro s t hdue h herr
  rcases cases_of_due hdue h with ⟨e, rfl⟩ | ⟨i, -, rfl⟩
  · exact ⟨rfl, e.code_range⟩
  · simp at herr

/-! ## Runs -/

/-- Whichever event has the turn is one of the waiting ones. -/
theorem step_next_of_contracted {s : State} (h : s.Contracted) : ∃ t, step s = .next t :=
  step_next s fun e rest hn => h e (by rw [(nextTurn_host.mp hn).1]; exact List.mem_cons_self)

theorem inv_of_reachable {s : State} (h : Reachable s) : s.Inv := by
  induction h with
  | reset => exact resetMeetsTheInvariant.1
  | step _ hstep ih => exact stepKeepsTheInvariant _ _ ih hstep
  | issue events _ ih => exact resetMeetsTheInvariant.2 _ events ih

/-- Settles O50. -/
theorem reachableStatesRunSafely : Obligations.ReachableStatesRunSafely :=
  ⟨fun _ => step_next_of_contracted, fun _ hr => ⟨inv_of_reachable hr, step_next_of_contracted⟩⟩

/-! ## ERR and ERRCODE (rules R232, R233) -/

/-- Settles O56: of the bus accesses that do not accept a command, a dropped write sets WDROP alone and the others leave
STATUS as it is. -/
theorem errorStaysUntilTheNextCommand : Obligations.ErrorStaysUntilTheNextCommand := by
  intro s t h hne
  cases stepCase_of_step h with
  | idle | read | dropped => simp at hne
  | rejected e hdue => exact .inl hdue
  | completed i hdue => exact .inl hdue
  | reset rest hq => exact .inr (.inl ⟨rest, hq⟩)
  | accepted v rest hq hb => exact .inr (.inr ⟨hb, ⟨v, rest, hq⟩, rfl, rfl⟩)
  | written off v rest hq hb ha hl => simp [writeLoc_status hl] at hne

end Sys2Proof.Machine
end

section
/-! PROOFS. An idle CORE, reset before all, and the end of every accepted command (family 70_reset_and_hazards.md). -/

namespace Sys2Proof.Machine

/-! ## The bound on a command's end (rule R272) -/

/-- While BUSY = 1 an event other than reset leaves BUSY, the queue behind it and the count as they are. -/
theorem applyEvent_frame_of_busy {s : State} {e : HostEvent} (hb : s.status.busy = true) (he : e ≠ .reset) :
    (applyEvent s e).status.busy = true ∧ (applyEvent s e).hostQueue = s.hostQueue ∧
      (applyEvent s e).busyLeft = s.busyLeft := by
  cases e with
  | read | poll => exact ⟨hb, rfl, rfl⟩
  | write off bytes v => rw [applyEvent, busWrite_busy off v hb]; exact ⟨hb, rfl, rfl⟩
  | reset => exact absurd rfl he

/-- A step of a busy CORE ends the command or takes one event and counts it down. -/
theorem busy_step_ends_or_counts {s t : State} (hb : s.status.busy = true) (h : step s = .next t) :
    t.status.busy = false ∨
    (t.status.busy = true ∧ (∃ e, s.hostQueue = e :: t.hostQueue) ∧ t.busyLeft + 1 = s.busyLeft) := by
  rcases hn : nextTurn s with _ | _ | ⟨e, rest⟩
  · simp [(nextTurn_idle.mp hn).1] at hb
  · rcases cases_of_due (nextTurn_command.mp hn) h with ⟨e, rfl⟩ | ⟨i, -, rfl⟩ <;> exact .inl rfl
  · obtain ⟨hq, hwaits⟩ := nextTurn_host.mp hn
    obtain rfl := eq_of_step_host h hn
    by_cases he : e = .reset
    · subst he; exact .inl rfl
    · obtain ⟨hbusy, hqueue, hleft⟩ := applyEvent_frame_of_busy (s := takeEvent rest s) hb he
      have hpos : 0 < s.busyLeft := ((hwaits hb).resolve_left he).2
      refine .inr ⟨hbusy, ⟨e, by rw [hqueue, hq, takeEvent_hostQueue]⟩, ?_⟩
      rw [hleft, takeEvent_busyLeft]
      omega

/-- Taking the first waiting event keeps the others inside the contract. -/
theorem contracted_of_queue_cons {s t : State} {e : HostEvent} (h : s.Contracted) (hq : s.hostQueue = e :: t.hostQueue) :
    t.Contracted :=
  fun e' he' => h e' (by rw [hq]; exact List.mem_cons_of_mem e he')

/-- Settles O6, by induction on the count: each step that does not end the command lowers it
(`busy_step_ends_or_counts`). -/
theorem acceptedCommandsFinish : Obligations.AcceptedCommandsFinish := by
  intro s hb hc
  induction hk : s.busyLeft using Nat.strong_induction_on generalizing s with
  | _ k ih =>
    obtain ⟨t, hstep⟩ := step_next_of_contracted hc
    rcases busy_step_ends_or_counts hb hstep with hdone | ⟨hbusy, ⟨e, hq⟩, hleft⟩
    · exact ⟨1, t, by omega, core_run_next hstep, hdone⟩
    · obtain ⟨n, u, hn, hrun, hu⟩ := ih t.busyLeft (by omega) t hbusy (contracted_of_queue_cons hc hq) rfl
      exact ⟨n + 1, u, by omega, (core_run_next hstep).trans hrun, hu⟩

/-! ## Reset (rule R260) -/

theorem tabulate_getElem?_of_lt {α : Type} {n k : Nat} (f : Nat → α) (hk : k < n) : (tabulate n f)[k]? = some (f k) := by
  rw [tabulate_getElem?, if_pos hk]

/-- Settles O9: a reset at the head of the queue has the turn (`nextTurn_of_reset`), busy or not, and every buffer is
then the new epoch's tabulated draw. -/
theorem resetTakesPrecedence : Obligations.ResetTakesPrecedence := by
  intro s rest hq
  refine ⟨resetCore (takeEvent rest s), step_host (nextTurn_of_reset hq) rfl, rfl, rfl, rfl, rfl, rfl, rfl, rfl, rfl,
    ?_, ?_, ?_, ?_, rfl, rfl⟩
  all_goals exact fun k hk => tabulate_getElem?_of_lt _ hk

/-! ## The idle CORE (rule R261) -/

/-- Settles O5. -/
theorem idleCoreHoldsItsState : Obligations.IdleCoreHoldsItsState :=
  ⟨fun _ hb hq => step_idle (nextTurn_idle.mpr ⟨hb, hq⟩), step_idle (nextTurn_idle.mpr ⟨rfl, rfl⟩)⟩

end Sys2Proof.Machine
end
